-- ==== Sys2Proof/Word.lean ====
section
/-! DEFINITION. The words that cross the block's boundary and the values of the command fields
(spec/30_encoding.md R80 to R95, spec/10_state.md R31). Plain data only. -/

namespace Sys2Proof

/-- A 32-bit word: the command word, an operand word, a result word, a Power Vector lane (R7 `W`, R9). -/
abbrev Word := BitVec 32

/-- A byte of a serialised command list (20_memory.md R62). -/
abbrev Byte := BitVec 8

/-- A 12-bit pulse count, 0 .. 4095 (R7 `PBITS`, R39, R44). -/
abbrev PulseCount := BitVec 12

/-- A 4-bit PWM channel number (R7 `NCH`, R46). -/
abbrev Channel := BitVec 4

/-- A calibration slot number, 0 .. 15 (R7 `NSLOT`, R44, R61). -/
abbrev Slot := Fin 16

/-- The four lanes of a Power Vector, in index order FL = 0, FR = 1, BL = 2, BR = 3 (R16). -/
inductive Lane where
  | fl | fr | bl | br
  deriving DecidableEq, Repr

/-- The Power Vector range `PV.R`: signed is bit value 0, unsigned is bit value 1 (R35). -/
inductive PvRange where
  | signed | unsigned
  deriving DecidableEq, Repr

/-- The input scale of MECANUM, field `P`: `unit` is 0, `percent` is 1 (R86). -/
inductive InputScale where
  | unit | percent
  deriving DecidableEq, Repr

/-- The angular servo kind, field `L`: `deg180` is 0, `deg270` is 1 (R88). -/
inductive ServoKind where
  | deg180 | deg270
  deriving DecidableEq, Repr

/-- The eleven moves, in the order of their codes 0 .. 10 (R91). -/
inductive Move where
  | stop | north | northEast | east | southEast | south | southWest | west | northWest
  | clockWise | counterClockWise
  deriving DecidableEq, Repr

/-- What a `MOVE` field holds: a move, or a code outside the Move set (R91: codes 11 .. 15 are legal
encodings). That `unknown` carries such a code is checked by `Instr.WellFormed`. -/
inductive MoveArg where
  | named (m : Move)
  | unknown (code : BitVec 4)
  deriving DecidableEq, Repr

/-- The input of an encoder command (R93). `operand lane v` is `S = 0`: the value is `fx v` with `v` the
word `OPA`, and the `LANE` field's value is kept although the command ignores it. `lane l` is `S = 1`. -/
inductive Source where
  | operand (lane : Lane) (v : Word)
  | lane (l : Lane)
  deriving DecidableEq, Repr

/-- The five calibration points of one continuous-rotation slot (R44). -/
structure Calibration where
  maxb : PulseCount
  minb : PulseCount
  stop : PulseCount
  minf : PulseCount
  maxf : PulseCount
  deriving DecidableEq, Repr

/-- One pulse write handed to the driver, `set_channel_pulse(ch, on, off)` (R46). -/
structure PulseWrite where
  ch : Channel
  on : PulseCount
  off : PulseCount
  deriving DecidableEq, Repr

/-- A command transaction: the command word and its four operand words, presented together (R80). -/
structure Transaction where
  cmd : Word
  opa : Word
  opb : Word
  opc : Word
  opd : Word
  deriving DecidableEq, Repr

end Sys2Proof
end

