-- ==== Sys2Proof/Config.lean ====
section
/-! DEFINITION. The named constants of spec/00_scope.md R7, each once, at the value the rule gives, and
the default of the one model argument `SOUTH_HIST` (R8, R48). The widths `W`, `PBITS` and the sizes
`NCH`, `NSLOT` also stand in the types of Word.lean. -/

namespace Sys2Proof.Config

/-- R7 `W`: width of the command word and of each operand and result word. -/
def W : Nat := 32

/-- R7 `FRAC`: fraction bits of the Q16.16 value format. -/
def FRAC : Nat := 16

/-- R7 `ONE`: the Q16.16 word of the value 1, derived from `FRAC`. -/
def ONE : Nat := 2 ^ FRAC

/-- R7 `NCH`: number of PWM channels. -/
def NCH : Nat := 16

/-- R7 `PBITS`: width of a pulse count. -/
def PBITS : Nat := 12

/-- R7 `PMAX`: largest pulse count. -/
def PMAX : Nat := 2 ^ PBITS - 1

/-- R7 `DC_FULL`: brushed DC full-scale magnitude. -/
def DC_FULL : Nat := 4095

/-- R7 `ANG_LIM_180`: angular limit of a 180° servo, in degrees. -/
def ANG_LIM_180 : Nat := 90

/-- R7 `ANG_LIM_270`: angular limit of a 270° servo, in degrees. -/
def ANG_LIM_270 : Nat := 135

/-- R7 `US_NUM`: numerator of the degrees-to-microseconds slope. -/
def US_NUM : Nat := 1800

/-- R7 `US_DEN`: denominator of the degrees-to-microseconds slope. -/
def US_DEN : Nat := 180

/-- R7 `US_OFF`: microseconds offset. -/
def US_OFF : Nat := 600

/-- R7 `TICKS`: ticks per PWM period. -/
def TICKS : Nat := 4096

/-- R7 `PERIOD_US`: PWM period in microseconds. -/
def PERIOD_US : Nat := 20000

/-- R7 `PCT`: divisor of the percent input scale. -/
def PCT : Nat := 100

/-- R7 `CRS_DEFAULT`: default calibration of a continuous-rotation servo, paired as decision D19 says. -/
def CRS_DEFAULT : Calibration :=
  { maxb := 85, minb := 285, stop := 310, minf := 335, maxf := 535 }

/-- R7 `NSLOT`: number of calibration slots. -/
def NSLOT : Nat := 16

/-- R7, R48: the default of the configuration input `SOUTH_HIST` (0). -/
def SOUTH_HIST_DEFAULT : Bool := false

end Sys2Proof.Config
end

