-- ==== Sys2Proof/Syntax.lean ====
section
/-! DEFINITION. The instructions of AMK-CMD v1: one constructor per row of spec/opcode_table.json
(spec/30_encoding.md R99), carrying the command word's fields and the operand words the row's rule reads
(operand words are inputs of the step and no state, spec/10_state.md R33). -/

namespace Sys2Proof

/-- A legal command. -/
inductive Instr where
  /-- NOP, R110. -/
  | nop
  /-- PVNEW, R111: range `R`, operands fl, fr, bl, br. -/
  | pvnew (r : PvRange) (fl fr bl br : Word)
  /-- PVSET, R112. -/
  | pvset (fl fr bl br : Word)
  /-- PVSCALE, R113. -/
  | pvscale (factor : Word)
  /-- PVVALUES, R114. -/
  | pvvalues
  /-- MOVE.2W, R132. -/
  | move2w (m : MoveArg)
  /-- MOVE.4D, R133. -/
  | move4d (m : MoveArg)
  /-- MOVE.4M, R135. -/
  | move4m (m : MoveArg)
  /-- MECANUM, R136. -/
  | mecanum (p : InputScale) (lat lon rot : Word)
  /-- ENCDC, R153: forward channel `cha`, reverse channel `chb`. -/
  | encdc (src : Source) (emit : Bool) (cha chb : Channel)
  /-- ENCANG, R155. -/
  | encang (src : Source) (kind : ServoKind) (emit : Bool) (cha : Channel)
  /-- ENCCRS, R157. -/
  | enccrs (src : Source) (emit : Bool) (cha : Channel) (slot : Slot)
  /-- CALWR, R180: the points as unpacked by R95. -/
  | calwr (slot : Slot) (points : Calibration)
  /-- CALRD, R181. -/
  | calrd (slot : Slot)
  deriving DecidableEq, Repr

end Sys2Proof
end

