-- ==== Sys2Proof/WellFormed.lean ====
section
/-! DEFINITION. Well-formed instructions: the terms that some command transaction encodes. The one
relation the types do not carry is that a `MoveArg.unknown` holds a code outside the Move set
(spec/30_encoding.md R91). -/

namespace Sys2Proof

/-- R91: the codes 11 .. 15 are outside the Move set; 0 .. 10 name moves. -/
def MoveArg.wellFormed : MoveArg → Bool
  | .named _ => true
  | .unknown code => 11 ≤ code.toNat

/-- The check of an instruction's operands. -/
def Instr.wellFormed : Instr → Bool
  | .nop => true
  | .pvnew _ _ _ _ _ => true
  | .pvset _ _ _ _ => true
  | .pvscale _ => true
  | .pvvalues => true
  | .move2w m => m.wellFormed
  | .move4d m => m.wellFormed
  | .move4m m => m.wellFormed
  | .mecanum _ _ _ _ => true
  | .encdc _ _ _ _ => true
  | .encang _ _ _ _ => true
  | .enccrs _ _ _ _ => true
  | .calwr _ _ => true
  | .calrd _ => true

end Sys2Proof
end

