-- ==== Sys2Proof/Decode.lean ====
section
/-! DEFINITION. The opcode table (spec/30_encoding.md R99), the decoder (R96: total, by mask and match;
a word that matches no row is rejected by name), the encoder written from the formats R82 to R90 and
R95, and the little-endian serialisation of transactions (spec/20_memory.md R62). -/

namespace Sys2Proof

/-! ## The opcode table -/

/-- The rows of the opcode table, one per mnemonic (R99). -/
inductive Row where
  | nop | pvnew | pvset | pvscale | pvvalues | move2w | move4d | move4m | mecanum
  | encdc | encang | enccrs | calwr | calrd
  deriving DecidableEq, Repr

/-- The rows in the table's order. -/
def Row.all : List Row :=
  [.nop, .pvnew, .pvset, .pvscale, .pvvalues, .move2w, .move4d, .move4m, .mecanum,
   .encdc, .encang, .enccrs, .calwr, .calrd]

/-- R99, column `match`. -/
def Row.value : Row → Word
  | .nop => 0x00000000
  | .pvnew => 0x01000000
  | .pvset => 0x02000000
  | .pvscale => 0x03000000
  | .pvvalues => 0x04000000
  | .move2w => 0x10000000
  | .move4d => 0x10000010
  | .move4m => 0x10000020
  | .mecanum => 0x11000000
  | .encdc => 0x20000000
  | .encang => 0x21000000
  | .enccrs => 0x22000000
  | .calwr => 0x30000000
  | .calrd => 0x31000000

/-- R99, column `mask`. -/
def Row.mask : Row → Word
  | .nop => 0xFFFFFFFF
  | .pvnew => 0xFFFFFFFE
  | .pvset => 0xFFFFFFFF
  | .pvscale => 0xFFFFFFFF
  | .pvvalues => 0xFFFFFFFF
  | .move2w => 0xFFFFFFF0
  | .move4d => 0xFFFFFFF0
  | .move4m => 0xFFFFFFF0
  | .mecanum => 0xFFFFFFFE
  | .encdc => 0xFFFFF000
  | .encang => 0xFFFFE0F0
  | .enccrs => 0xFFF0F0F0
  | .calwr => 0xFFF0FFFF
  | .calrd => 0xFFF0FFFF

/-- R96: a word is the row's instruction when `CMD AND mask = match`. -/
def Row.matches (r : Row) (cmd : Word) : Bool :=
  cmd &&& r.mask == r.value

/-- R96: the row of a command word, `none` for an illegal word. -/
def decodeRow (cmd : Word) : Option Row :=
  Row.all.find? (fun r => r.matches cmd)

/-! ## Field values -/

/-- The bits `lo + n - 1 .. lo` of a word (R9). -/
def bits (w : Word) (lo n : Nat) : BitVec n := w.extractLsb' lo n

/-- R16, R93: lane of an index. -/
def Lane.ofBits (b : BitVec 2) : Lane :=
  match b.toNat with
  | 0 => .fl
  | 1 => .fr
  | 2 => .bl
  | _ => .br

/-- R16, R93: index of a lane. -/
def Lane.toBits : Lane → BitVec 2
  | .fl => 0
  | .fr => 1
  | .bl => 2
  | .br => 3

/-- R84. -/
def PvRange.ofBit (b : BitVec 1) : PvRange := if b = 1 then .unsigned else .signed

/-- R84. -/
def PvRange.toBit : PvRange → BitVec 1
  | .signed => 0
  | .unsigned => 1

/-- R86. -/
def InputScale.ofBit (b : BitVec 1) : InputScale := if b = 1 then .percent else .unit

/-- R86. -/
def InputScale.toBit : InputScale → BitVec 1
  | .unit => 0
  | .percent => 1

/-- R88. -/
def ServoKind.ofBit (b : BitVec 1) : ServoKind := if b = 1 then .deg270 else .deg180

/-- R88. -/
def ServoKind.toBit : ServoKind → BitVec 1
  | .deg180 => 0
  | .deg270 => 1

/-- R91: what a `MOVE` field names. -/
def MoveArg.ofBits (b : BitVec 4) : MoveArg :=
  match b.toNat with
  | 0 => .named .stop
  | 1 => .named .north
  | 2 => .named .northEast
  | 3 => .named .east
  | 4 => .named .southEast
  | 5 => .named .south
  | 6 => .named .southWest
  | 7 => .named .west
  | 8 => .named .northWest
  | 9 => .named .clockWise
  | 10 => .named .counterClockWise
  | _ => .unknown b

/-- R91: the code of a move. -/
def Move.code : Move → BitVec 4
  | .stop => 0
  | .north => 1
  | .northEast => 2
  | .east => 3
  | .southEast => 4
  | .south => 5
  | .southWest => 6
  | .west => 7
  | .northWest => 8
  | .clockWise => 9
  | .counterClockWise => 10

/-- R91: the code a `MOVE` field holds. -/
def MoveArg.toBits : MoveArg → BitVec 4
  | .named m => m.code
  | .unknown code => code

/-- R93: the source select of formats ED, EA and EC (`LANE` bits 9:8, `S` bit 10). -/
def Source.ofTransaction (t : Transaction) : Source :=
  let lane := Lane.ofBits (bits t.cmd 8 2)
  if bits t.cmd 10 1 = 1 then .lane lane else .operand lane t.opa

/-- R93: field `S`. -/
def Source.sBit : Source → BitVec 1
  | .operand _ _ => 0
  | .lane _ => 1

/-- R93: field `LANE`. -/
def Source.laneBits : Source → BitVec 2
  | .operand l _ => l.toBits
  | .lane l => l.toBits

/-- The operand word `OPA` of an encoder command; 0 where the command does not read it (R100). -/
def Source.opa : Source → Word
  | .operand _ v => v
  | .lane _ => 0

/-- Field `EMIT`, bit 11 of formats ED, EA and EC (R87 to R89). -/
def emitBit (cmd : Word) : Bool := bits cmd 11 1 == 1

/-- Field `SLOT`, bits 19:16 of formats EC and CS (R89, R90). -/
def slotField (cmd : Word) : Slot := (bits cmd 16 4).toFin

/-- R89, R90: the bits of a slot number. -/
def slotBits (slot : Slot) : BitVec 4 := BitVec.ofFin slot

/-- R95: a calibration slot's points from CALWR's packed operand words. -/
def Calibration.unpack (opa opb opc : Word) : Calibration :=
  { maxb := bits opa 0 12
    minb := bits opa 16 12
    stop := bits opb 0 12
    minf := bits opb 16 12
    maxf := bits opc 0 12 }

/-- R95, R181: two points in one word, the first in bits 11:0, the second in bits 27:16. -/
def packPoints (low high : PulseCount) : Word :=
  low.setWidth 32 ||| high.setWidth 32 <<< 16

/-! ## The decoder -/

/-- The instruction of a transaction whose command word is the given row's (R83 to R95). -/
def Row.instr (r : Row) (t : Transaction) : Instr :=
  match r with
  | .nop => .nop
  | .pvnew => .pvnew (.ofBit (bits t.cmd 0 1)) t.opa t.opb t.opc t.opd
  | .pvset => .pvset t.opa t.opb t.opc t.opd
  | .pvscale => .pvscale t.opa
  | .pvvalues => .pvvalues
  | .move2w => .move2w (.ofBits (bits t.cmd 0 4))
  | .move4d => .move4d (.ofBits (bits t.cmd 0 4))
  | .move4m => .move4m (.ofBits (bits t.cmd 0 4))
  | .mecanum => .mecanum (.ofBit (bits t.cmd 0 1)) t.opa t.opb t.opc
  | .encdc => .encdc (.ofTransaction t) (emitBit t.cmd) (bits t.cmd 0 4) (bits t.cmd 4 4)
  | .encang =>
      .encang (.ofTransaction t) (.ofBit (bits t.cmd 12 1)) (emitBit t.cmd) (bits t.cmd 0 4)
  | .enccrs => .enccrs (.ofTransaction t) (emitBit t.cmd) (bits t.cmd 0 4) (slotField t.cmd)
  | .calwr => .calwr (slotField t.cmd) (.unpack t.opa t.opb t.opc)
  | .calrd => .calrd (slotField t.cmd)

/-- Why the decoder rejects its input. The first three are R98's kinds of illegal word; the block treats
them alike (R97). The names are the model's (log 13). -/
inductive Reject where
  /-- The opcode is reserved (R98). Safe: the block's answer is R97's, the same for each kind. -/
  | reservedOpcode (op : BitVec 8)
  /-- A MOVE word with `LAY = 3` (R92, R98). -/
  | noLayout
  /-- A 1 in a bit the word's format shows as 0 (R82, R98). -/
  | reservedBits
  /-- Fewer than the twenty bytes of a transaction: not a command (20_memory.md R64). -/
  | truncated
  deriving DecidableEq, Repr

/-- R98: which kind of illegal word `cmd` is. -/
def rejectOf (cmd : Word) : Reject :=
  let op := bits cmd 24 8
  if Row.all.all (fun r => bits r.value 24 8 != op) then .reservedOpcode op
  else if op = 0x10 ∧ bits cmd 4 2 = 3 then .noLayout
  else .reservedBits

/-- R96: the decoder, total on all transactions. -/
def decode (t : Transaction) : Except Reject Instr :=
  match decodeRow t.cmd with
  | some r => .ok (r.instr t)
  | none => .error (rejectOf t.cmd)

/-! ## The encoder -/

/-- The row of an instruction. -/
def Instr.row : Instr → Row
  | .nop => .nop
  | .pvnew _ _ _ _ _ => .pvnew
  | .pvset _ _ _ _ => .pvset
  | .pvscale _ => .pvscale
  | .pvvalues => .pvvalues
  | .move2w _ => .move2w
  | .move4d _ => .move4d
  | .move4m _ => .move4m
  | .mecanum _ _ _ _ => .mecanum
  | .encdc _ _ _ _ => .encdc
  | .encang _ _ _ _ => .encang
  | .enccrs _ _ _ _ => .enccrs
  | .calwr _ _ => .calwr
  | .calrd _ => .calrd

/-- A field's bits at its place in a word, `lo` the place of its bit 0 (R82). -/
def place {n : Nat} (b : BitVec n) (lo : Nat) : Word := b.setWidth 32 <<< lo

/-- The fields of an instruction at the places R83 to R90 give them, every other bit 0. -/
def Instr.fieldBits : Instr → Word
  | .nop => 0
  | .pvnew r _ _ _ _ => place r.toBit 0
  | .pvset _ _ _ _ => 0
  | .pvscale _ => 0
  | .pvvalues => 0
  | .move2w m => place m.toBits 0
  | .move4d m => place m.toBits 0
  | .move4m m => place m.toBits 0
  | .mecanum p _ _ _ => place p.toBit 0
  | .encdc src emit cha chb =>
      place cha 0 ||| place chb 4 ||| place src.laneBits 8 ||| place src.sBit 10 |||
        place (BitVec.ofBool emit) 11
  | .encang src kind emit cha =>
      place cha 0 ||| place src.laneBits 8 ||| place src.sBit 10 ||| place (BitVec.ofBool emit) 11 |||
        place kind.toBit 12
  | .enccrs src emit cha slot =>
      place cha 0 ||| place src.laneBits 8 ||| place src.sBit 10 ||| place (BitVec.ofBool emit) 11 |||
        place (slotBits slot) 16
  | .calwr slot _ => place (slotBits slot) 16
  | .calrd slot => place (slotBits slot) 16

/-- The command word of an instruction: its row's fixed bits (R99) and its fields. -/
def encodeCmd (i : Instr) : Word := i.row.value ||| i.fieldBits

/-- The transaction of an instruction, with 0 in every operand word the command does not read (R100). -/
def encode (i : Instr) : Transaction :=
  let cmd := encodeCmd i
  match i with
  | .nop => ⟨cmd, 0, 0, 0, 0⟩
  | .pvnew _ fl fr bl br => ⟨cmd, fl, fr, bl, br⟩
  | .pvset fl fr bl br => ⟨cmd, fl, fr, bl, br⟩
  | .pvscale factor => ⟨cmd, factor, 0, 0, 0⟩
  | .pvvalues => ⟨cmd, 0, 0, 0, 0⟩
  | .move2w _ => ⟨cmd, 0, 0, 0, 0⟩
  | .move4d _ => ⟨cmd, 0, 0, 0, 0⟩
  | .move4m _ => ⟨cmd, 0, 0, 0, 0⟩
  | .mecanum _ lat lon rot => ⟨cmd, lat, lon, rot, 0⟩
  | .encdc src _ _ _ => ⟨cmd, src.opa, 0, 0, 0⟩
  | .encang src _ _ _ => ⟨cmd, src.opa, 0, 0, 0⟩
  | .enccrs src _ _ _ => ⟨cmd, src.opa, 0, 0, 0⟩
  | .calwr _ c => ⟨cmd, packPoints c.maxb c.minb, packPoints c.stop c.minf, packPoints c.maxf 0, 0⟩
  | .calrd _ => ⟨cmd, 0, 0, 0, 0⟩

/-! ## Serialised transactions -/

/-- R62: the four bytes of a word, byte 0 holding bits 7:0. -/
def wordBytes (w : Word) : List Byte := [bits w 0 8, bits w 8 8, bits w 16 8, bits w 24 8]

/-- R62: the word of four bytes. -/
def wordOfBytes (b0 b1 b2 b3 : Byte) : Word := (b3 ++ (b2 ++ (b1 ++ b0)) : BitVec (8 + (8 + (8 + 8))))

/-- The first word of a byte list and the bytes after it. -/
def takeWord : List Byte → Except Reject (Word × List Byte)
  | b0 :: b1 :: b2 :: b3 :: rest => .ok (wordOfBytes b0 b1 b2 b3, rest)
  | _ => .error .truncated

/-- R80: the bytes of a transaction, `CMD` first. -/
def Transaction.toBytes (t : Transaction) : List Byte :=
  wordBytes t.cmd ++ wordBytes t.opa ++ wordBytes t.opb ++ wordBytes t.opc ++ wordBytes t.opd

/-- R64, R80: the first transaction of a byte list; a partial transaction is not a command. -/
def Transaction.ofBytes (bs : List Byte) : Except Reject (Transaction × List Byte) :=
  match takeWord bs with
  | .error e => .error e
  | .ok (cmd, bs) =>
  match takeWord bs with
  | .error e => .error e
  | .ok (opa, bs) =>
  match takeWord bs with
  | .error e => .error e
  | .ok (opb, bs) =>
  match takeWord bs with
  | .error e => .error e
  | .ok (opc, bs) =>
  match takeWord bs with
  | .error e => .error e
  | .ok (opd, bs) => .ok (⟨cmd, opa, opb, opc, opd⟩, bs)

/-- The decoder on bytes: the first transaction's instruction and the bytes after it. -/
def decodeBytes (bs : List Byte) : Except Reject (Instr × List Byte) :=
  match Transaction.ofBytes bs with
  | .error e => .error e
  | .ok (t, rest) =>
    match decode t with
    | .error e => .error e
    | .ok i => .ok (i, rest)

/-- The bytes of an instruction's transaction. -/
def encodeBytes (i : Instr) : List Byte := (encode i).toBytes

/-- The transaction whose bits are `w`: bit 0 is bit 0 of `CMD`, and the operand words count on from it;
bits from `nbits` up are 0. -/
def Transaction.ofTableWord (nbits w : Nat) : Transaction :=
  let v := w % 2 ^ nbits
  let word (k : Nat) : Word := BitVec.ofNat 32 (v >>> (k * Config.W))
  ⟨word 0, word 1, word 2, word 3, word 4⟩

/-- The instruction the decoder reads from the bytes of the transaction whose bits are `w`. -/
def decodeTableWord (nbits w : Nat) : Option Instr :=
  match decodeBytes (Transaction.ofTableWord nbits w).toBytes with
  | .ok (i, []) => some i
  | _ => none

end Sys2Proof
end

