-- ==== Sys2Proof/Machine/Flags.lean ====
section
/-! DEFINITION. The `STATUS` words (spec/10_state.md R40 to R42): the block's only flags (R43). Bits 31:2
are reserved and never written with 1. -/

namespace Sys2Proof.Machine

open Sys2Proof

/-- R40: the `STATUS` word with `UNSUP` in bit 0 and `ILL` in bit 1. -/
def statusWord (unsup ill : Bool) : Word :=
  (0#30 ++ (BitVec.ofBool ill ++ BitVec.ofBool unsup) : BitVec (30 + (1 + 1)))

/-- `STATUS` after a command that reports nothing: `UNSUP = 0`, `ILL = 0`. -/
def statusOk : Word := statusWord false false

/-- `STATUS` after a discrete move: `UNSUP` is 1 when the move is not supported (R41). -/
def statusOfMove (supported : Bool) : Word := statusWord (!supported) false

/-- `STATUS` after an illegal command word (R42, R97). -/
def statusIllegal : Word := statusWord false true

end Sys2Proof.Machine
end

