-- ==== Sys2Proof/Machine/Numeric.lean ====
section
/-! DEFINITION. The exact arithmetic of the block (spec/00_scope.md R10 to R14): values are rational
numbers, and a rule rounds only where it applies `rnd`, `tofx` or `sat12`. -/

namespace Sys2Proof.Machine

open Sys2Proof

/-- R11: the value nearest to `x` in the range `[lo, hi]`. -/
def clamp (x lo hi : ℚ) : ℚ := min hi (max lo x)

/-- R12: round to the nearest integer, a tie going toward +∞. -/
def rnd (x : ℚ) : ℤ := ⌊x + 1 / 2⌋

/-- R13: the value of a Q16.16 word. -/
def fx (w : Word) : ℚ := (w.toInt : ℚ) / (Config.ONE : ℚ)

/-- R13: the Q16.16 word of a value. -/
def tofx (x : ℚ) : Word := BitVec.ofInt 32 (rnd (x * (Config.ONE : ℚ)))

/-- R14: the nearest pulse count a 12-bit port can carry. -/
def sat12 (n : ℤ) : PulseCount := BitVec.ofInt 12 (min (Config.PMAX : ℤ) (max 0 n))

/-- R35: the lower bound of a range. -/
def rangeLo : PvRange → ℚ
  | .signed => -1
  | .unsigned => 0

/-- R35: the upper bound of a range. -/
def rangeHi : PvRange → ℚ
  | .signed => 1
  | .unsigned => 1

end Sys2Proof.Machine
end

