-- ==== Sys2Proof/Machine/State.lean ====
section
/-! DEFINITION. The state of the block: every register of spec/10_state.md R31, its reset values (R49),
the input port the host feeds (R32, R33), and the reasons a step could stop. -/

namespace Sys2Proof.Machine

open Sys2Proof

/-- The Power Vector register `PV` with its range bit `PV.R` (R34, R35). -/
structure PowerVector where
  fl : Word
  fr : Word
  bl : Word
  br : Word
  range : PvRange
  deriving DecidableEq, Repr

/-- What the host can do to the block between two commands: present a command transaction (R30, R33) or
apply reset (70_reset_and_hazards.md R231). -/
inductive HostInput where
  | command (t : Transaction)
  | reset
  deriving DecidableEq, Repr

/-- The machine's state: the registers of R31 and, as the model's own field (log 1), the port. -/
structure State where
  /-- The Power Vector (R34, R35). -/
  pv : PowerVector
  /-- Result word `RES0` (R38). -/
  res0 : Word
  /-- Result word `RES1` (R38). -/
  res1 : Word
  /-- Result word `RES2` (R38). -/
  res2 : Word
  /-- Result word `RES3` (R38). -/
  res3 : Word
  /-- Pulse register `PULSE_A` (R39). -/
  pulseA : PulseCount
  /-- Pulse register `PULSE_B` (R39). -/
  pulseB : PulseCount
  /-- `STATUS` (R40). -/
  status : Word
  /-- The calibration slots `CAL[0]` .. `CAL[15]` (R44). -/
  cal : Vector Calibration 16
  /-- The output sequence `OUT`, oldest first (R46). -/
  out : List PulseWrite
  /-- The configuration input `SOUTH_HIST` (R48). -/
  southHist : Bool
  /-- The model's own field: the host's inputs still to come, the next one first (R32, R33; log 1). -/
  port : List HostInput
  deriving DecidableEq, Repr

/-- Reasons the machine stops with a fault: none. No command and no command word traps, faults, halts or
aborts (60_exceptions.md R201), so the type is empty and no claim can end in a fault (safe). -/
inductive Fault where
  deriving DecidableEq, Repr

/-- Reasons the model refuses. -/
inductive Refusal where
  /-- The instruction has no meaning in the model. Raised only by an arm of `exec` that is not modelled
  yet, and no arm is left so. Safe: a refusal proves nothing about the block. -/
  | notModelled (mnemonic : String)
  deriving DecidableEq, Repr

/-- What a meaning answers. -/
abbrev Result := Host.Outcome State Fault Refusal

/-- R49: the zero Power Vector in the signed range. -/
def PowerVector.zero : PowerVector := { fl := 0, fr := 0, bl := 0, br := 0, range := .signed }

/-- R49, R230: every register at its reset value, for a given value of the configuration input and given
inputs still to come, which reset does not touch. -/
def State.resetWith (southHist : Bool) (port : List HostInput) : State :=
  { pv := .zero
    res0 := 0
    res1 := 0
    res2 := 0
    res3 := 0
    pulseA := 0
    pulseB := 0
    status := 0
    cal := Vector.replicate 16 Config.CRS_DEFAULT
    out := []
    southHist := southHist
    port := port }

/-- The machine right after reset, with `SOUTH_HIST` at its default (R48, R49), waiting for the first
command transaction (R231). -/
def State.reset : State := State.resetWith Config.SOUTH_HIST_DEFAULT []

end Sys2Proof.Machine
end

