-- ==== Sys2Proof/Machine/Ops.lean ====
section
/-! DEFINITION. The named operations over the registers, the output sequence and the port: the only
places where a meaning reads or writes state. -/

namespace Sys2Proof.Machine

open Sys2Proof

/-! ## Power Vector -/

/-- The lane of an index (R16, R93). -/
def PowerVector.lane (pv : PowerVector) : Lane → Word
  | .fl => pv.fl
  | .fr => pv.fr
  | .bl => pv.bl
  | .br => pv.br

/-- Four exact values, one per lane. -/
structure LaneValues where
  fl : ℚ
  fr : ℚ
  bl : ℚ
  br : ℚ

/-- The Power Vector of four values in a given range, each stored by `tofx` (R34). -/
def LaneValues.store (v : LaneValues) (range : PvRange) : PowerVector :=
  { fl := tofx v.fl, fr := tofx v.fr, bl := tofx v.bl, br := tofx v.br, range := range }

/-- Each value clamped to the bounds of a range, lane by lane (R11, R115). -/
def LaneValues.clampTo (v : LaneValues) (range : PvRange) : LaneValues :=
  { fl := clamp v.fl (rangeLo range) (rangeHi range)
    fr := clamp v.fr (rangeLo range) (rangeHi range)
    bl := clamp v.bl (rangeLo range) (rangeHi range)
    br := clamp v.br (rangeLo range) (rangeHi range) }

/-- The exact values of the lanes. -/
def PowerVector.values (pv : PowerVector) : LaneValues :=
  { fl := fx pv.fl, fr := fx pv.fr, bl := fx pv.bl, br := fx pv.br }

/-! ## Register writes -/

/-- `PV` and `PV.R` written. -/
def State.setPv (s : State) (pv : PowerVector) : State := { s with pv := pv }

/-- `RES0` .. `RES3` written (R38). -/
def State.setRes (s : State) (r0 r1 r2 r3 : Word) : State :=
  { s with res0 := r0, res1 := r1, res2 := r2, res3 := r3 }

/-- `PULSE_A` and `PULSE_B` written (R39). -/
def State.setPulses (s : State) (a b : PulseCount) : State := { s with pulseA := a, pulseB := b }

/-- `STATUS` written (R40). -/
def State.setStatus (s : State) (w : Word) : State := { s with status := w }

/-- `CAL[slot]`, a whole slot (R44). -/
def State.calSlot (s : State) (slot : Slot) : Calibration := s.cal[slot]

/-- `CAL[slot]` written, all five fields at once (R44, R180). -/
def State.setCalSlot (s : State) (slot : Slot) (c : Calibration) : State :=
  { s with cal := s.cal.set slot c }

/-- `Emit(ch, 0, count)`: a pulse write appended to `OUT` (R15, R46). -/
def State.emit (s : State) (ch : Channel) (count : PulseCount) : State :=
  { s with out := s.out ++ [{ ch := ch, on := 0, off := count }] }

/-- Emission under the `EMIT` bit: nothing when it is 0 (R151). -/
def State.emitIf (s : State) (emit : Bool) (ch : Channel) (count : PulseCount) : State :=
  if emit then s.emit ch count else s

/-! ## The event in an exception's place, and reset -/

/-- R97, R204: the effect of an illegal command word, the block's one answer where other machines take an
exception. It has no return (R208): the next command is accepted as usual. -/
def State.illegalCommand (s : State) : State := s.setStatus statusIllegal

/-- R230: reset applied between two commands. `SOUTH_HIST` keeps its value, and the host's inputs still to
come are not the block's. -/
def State.applyReset (s : State) : State := State.resetWith s.southHist s.port

/-! ## The port -/

/-- The port without its first input: what the block keeps of an input is only its effect (R33). -/
def State.takeInput (s : State) : State := { s with port := s.port.tail }

/-- An input put before those still to come. -/
def State.present (s : State) (i : HostInput) : State := { s with port := i :: s.port }

/-! ## Host reads -/

/-- The registers the host may read between commands (R31). -/
inductive HostReg where
  | res0 | res1 | res2 | res3 | pulseA | pulseB | status
  deriving DecidableEq, Repr

/-- A host read on a 32-bit bus: no side effect (R67), the 12-bit counts zero-extended (R39, R63). -/
def hostRead (s : State) : HostReg → Word
  | .res0 => s.res0
  | .res1 => s.res1
  | .res2 => s.res2
  | .res3 => s.res3
  | .pulseA => s.pulseA.setWidth 32
  | .pulseB => s.pulseB.setWidth 32
  | .status => s.status

/-- R71, R236: the pulse write a driver that obeys `OUT` in order has in effect on a channel, the last one
made to it. -/
def inEffect (out : List PulseWrite) (ch : Channel) : Option PulseWrite :=
  out.reverse.find? (fun w => w.ch == ch)

end Sys2Proof.Machine
end

