-- ==== Sys2Proof/Machine/Operands.lean ====
section
/-! DEFINITION. The operand forms: numeric words as values (spec/30_encoding.md R94), the encoders' source
select (R93, spec/42_actuation_encoder.md R150), MECANUM's two input scales (R86, spec/41_kinematics.md
R136) and CALRD's packing (R95, spec/43_configuration.md R181). -/

namespace Sys2Proof.Machine

open Sys2Proof

/-- R94: four operand words as the values they stand for. -/
def operandValues (fl fr bl br : Word) : LaneValues :=
  { fl := fx fl, fr := fx fr, bl := fx bl, br := fx br }

/-- R150: an encoder's input value. -/
def srcval (src : Source) (s : State) : ℚ :=
  match src with
  | .operand _ v => fx v
  | .lane l => fx (s.pv.lane l)

/-- R136: the divisor of an input scale. -/
def scaleDivisor : InputScale → ℚ
  | .unit => 1
  | .percent => (Config.PCT : ℚ)

/-- R136: an input of MECANUM, normalised to the internal scale and clamped to [-1, 1]. -/
def motionInput (p : InputScale) (w : Word) : ℚ := clamp (fx w / scaleDivisor p) (-1) 1

/-- R155: the limit of an angular servo kind in degrees. -/
def angularLimit : ServoKind → ℚ
  | .deg180 => (Config.ANG_LIM_180 : ℚ)
  | .deg270 => (Config.ANG_LIM_270 : ℚ)

/-- R181: the first result word of a slot, `MINB` over `MAXB`. -/
def calRes0 (c : Calibration) : Word := packPoints c.maxb c.minb

/-- R181: the second result word of a slot, `MINF` over `STOP`. -/
def calRes1 (c : Calibration) : Word := packPoints c.stop c.minf

/-- R181: the third result word of a slot, `MAXF` zero-extended. -/
def calRes2 (c : Calibration) : Word := c.maxf.setWidth 32

end Sys2Proof.Machine
end

