-- ==== Sys2Proof/Machine/Actuation.lean ====
section
/-! DEFINITION. The actuation encoder family: ENCDC, ENCANG, ENCCRS (spec/42_actuation_encoder.md). -/

namespace Sys2Proof.Machine

open Sys2Proof

/-- R152: the magnitude of a brushed DC power. -/
def dcMagnitude (p : ℚ) : ℤ := min (Config.DC_FULL : ℤ) (rnd (|p| * (Config.DC_FULL : ℚ)))

/-- R152: `dc(v)`, the forward and the reverse count. -/
def dc (v : ℚ) : ℤ × ℤ :=
  let p := clamp v (-1) 1
  let m := dcMagnitude p
  if 0 < p then (m, 0)
  else if p < 0 then (0, m)
  else (0, 0)

/-- ENCDC, R153: both pulse registers, and under `EMIT` the forward then the reverse write. -/
def execEncdc (src : Source) (emit : Bool) (cha chb : Channel) (s : State) : Result :=
  let c := dc (srcval src s)
  let a := sat12 c.1
  let b := sat12 c.2
  .next ((((s.setPulses a b).emitIf emit cha a).emitIf emit chb b).setStatus statusOk)

/-- R154: the exact tick count of a clamped angle, at the 10 µs per degree slope and 600 µs offset. -/
def angTicks (d : ℚ) : ℚ :=
  let us := d * (Config.US_NUM : ℚ) / (Config.US_DEN : ℚ) + (Config.US_OFF : ℚ)
  us * (Config.TICKS : ℚ) / (Config.PERIOD_US : ℚ)

/-- R154: `ang(v, L)`. -/
def ang (v : ℚ) (kind : ServoKind) : PulseCount :=
  let lim := angularLimit kind
  sat12 (rnd (angTicks (clamp v (-lim) lim)))

/-- What the one-channel encoders do with their count (R155, R157): `PULSE_A`, `PULSE_B` 0, one write under
`EMIT`. -/
def State.storeCount (s : State) (emit : Bool) (cha : Channel) (n : PulseCount) : State :=
  ((s.setPulses n 0).emitIf emit cha n).setStatus statusOk

/-- ENCANG, R155. -/
def execEncang (src : Source) (kind : ServoKind) (emit : Bool) (cha : Channel) (s : State) : Result :=
  .next (s.storeCount emit cha (ang (srcval src s) kind))

/-- The exact value of a calibration point. -/
def point (n : PulseCount) : ℚ := (n.toNat : ℚ)

/-- R156: the exact interpolated count of a clamped speed. -/
def crsValue (v : ℚ) (c : Calibration) : ℚ :=
  if v = 0 then point c.stop
  else if 0 < v then point c.minf + v * (point c.maxf - point c.minf)
  else point c.minb + (-v) * (point c.maxb - point c.minb)

/-- R156: `crs(v, c)`. -/
def crs (v : ℚ) (c : Calibration) : PulseCount := sat12 (rnd (crsValue (clamp v (-1) 1) c))

/-- ENCCRS, R157. -/
def execEnccrs (src : Source) (emit : Bool) (cha : Channel) (slot : Slot) (s : State) : Result :=
  .next (s.storeCount emit cha (crs (srcval src s) (s.calSlot slot)))

end Sys2Proof.Machine
end

