-- ==== Sys2Proof/Machine/Configuration.lean ====
section
/-! DEFINITION. The configuration family: CALWR, CALRD (spec/43_configuration.md). -/

namespace Sys2Proof.Machine

open Sys2Proof

/-- CALWR, R180: the five points of a slot written together, unchecked. -/
def execCalwr (slot : Slot) (points : Calibration) (s : State) : Result :=
  .next ((s.setCalSlot slot points).setStatus statusOk)

/-- CALRD, R181: a slot copied to the result words. -/
def execCalrd (slot : Slot) (s : State) : Result :=
  let c := s.calSlot slot
  .next ((s.setRes (calRes0 c) (calRes1 c) (calRes2 c) 0).setStatus statusOk)

end Sys2Proof.Machine
end

