-- ==== Sys2Proof/Machine/Kinematics.lean ====
section
/-! DEFINITION. The kinematics family: MOVE.2W, MOVE.4D, MOVE.4M, MECANUM (spec/41_kinematics.md). -/

namespace Sys2Proof.Machine

open Sys2Proof

/-- R131: the differential table as (FL, FR), `none` where the layout has no vector for the move. -/
def diffVector : Move → Option (ℚ × ℚ)
  | .stop => some (0, 0)
  | .north => some (1, 1)
  | .northEast => none
  | .east => none
  | .southEast => none
  | .south => some (-1, -1)
  | .southWest => none
  | .west => none
  | .northWest => none
  | .clockWise => some (-1, 1)
  | .counterClockWise => some (1, -1)

/-- R130, R132: `DIFF(MOVE)`, the vector and whether the move is supported; Stop's vector when not. -/
def diff (m : MoveArg) : (ℚ × ℚ) × Bool :=
  match m with
  | .named m =>
    match diffVector m with
    | some v => (v, true)
    | none => ((0, 0), false)
  | .unknown _ => ((0, 0), false)

/-- R134: the mecanum table. South is (-1,-1,-1,-1), or SouthWest's vector when `SOUTH_HIST = 1` (R48). -/
def mecVector (southHist : Bool) : Move → LaneValues
  | .stop => ⟨0, 0, 0, 0⟩
  | .north => ⟨1, 1, 1, 1⟩
  | .northEast => ⟨0, 1, 0, 1⟩
  | .east => ⟨-1, 1, -1, 1⟩
  | .southEast => ⟨-1, 0, -1, 0⟩
  | .south => if southHist then ⟨0, -1, -1, 0⟩ else ⟨-1, -1, -1, -1⟩
  | .southWest => ⟨0, -1, -1, 0⟩
  | .west => ⟨1, -1, 1, -1⟩
  | .northWest => ⟨1, 0, 1, 0⟩
  | .clockWise => ⟨1, 1, -1, -1⟩
  | .counterClockWise => ⟨-1, -1, 1, 1⟩

/-- R130, R135: `MEC(MOVE, SOUTH_HIST)`, the vector and whether the move is supported. -/
def mec (m : MoveArg) (southHist : Bool) : LaneValues × Bool :=
  match m with
  | .named m => (mecVector southHist m, true)
  | .unknown _ => (⟨0, 0, 0, 0⟩, false)

/-- What every discrete move does: the vector into `PV` in the signed range, `STATUS` from its support. -/
def State.storeMove (s : State) (v : LaneValues) (supported : Bool) : State :=
  (s.setPv (v.store .signed)).setStatus (statusOfMove supported)

/-- MOVE.2W, R132: BL and BR are 0. -/
def execMove2w (m : MoveArg) (s : State) : Result :=
  let v := (diff m).1
  .next (s.storeMove ⟨v.1, v.2, 0, 0⟩ (diff m).2)

/-- MOVE.4D, R133: BL copies FL and BR copies FR. -/
def execMove4d (m : MoveArg) (s : State) : Result :=
  let v := (diff m).1
  .next (s.storeMove ⟨v.1, v.2, v.1, v.2⟩ (diff m).2)

/-- MOVE.4M, R135. -/
def execMove4m (m : MoveArg) (s : State) : Result :=
  let v := mec m s.southHist
  .next (s.storeMove v.1 v.2)

/-- R136: the L1-normalised mixing of three inputs, the zero vector when all are 0. -/
def mecanumMix (lat lon rot : ℚ) : LaneValues :=
  let r := |lat| + |lon| + |rot|
  if r = 0 then ⟨0, 0, 0, 0⟩
  else
    { fl := (lat + lon + rot) / r
      fr := (lat - lon - rot) / r
      bl := (lat - lon + rot) / r
      br := (lat + lon - rot) / r }

/-- MECANUM, R136. -/
def execMecanum (p : InputScale) (lat lon rot : Word) (s : State) : Result :=
  let v := mecanumMix (motionInput p lat) (motionInput p lon) (motionInput p rot)
  .next ((s.setPv (v.store .signed)).setStatus statusOk)

end Sys2Proof.Machine
end

