-- ==== Sys2Proof/Machine/PowerVectorFamily.lean ====
section
/-! DEFINITION. The Power Vector family: NOP, PVNEW, PVSET, PVSCALE, PVVALUES (spec/40_power_vector.md). -/

namespace Sys2Proof.Machine

open Sys2Proof

/-- NOP, R110. -/
def execNop (s : State) : Result := .next (s.setStatus statusOk)

/-- PVNEW, R111: four values clamped to the range `R` selects, and the range recorded. -/
def execPvnew (r : PvRange) (fl fr bl br : Word) (s : State) : Result :=
  let pv := ((operandValues fl fr bl br).clampTo r).store r
  .next ((s.setPv pv).setStatus statusOk)

/-- PVSET, R112: four values clamped to the current range, which is kept. -/
def execPvset (fl fr bl br : Word) (s : State) : Result :=
  let r := s.pv.range
  let pv := ((operandValues fl fr bl br).clampTo r).store r
  .next ((s.setPv pv).setStatus statusOk)

/-- R113: every value multiplied by a factor, exactly. -/
def LaneValues.scale (v : LaneValues) (f : ℚ) : LaneValues :=
  { fl := v.fl * f, fr := v.fr * f, bl := v.bl * f, br := v.br * f }

/-- PVSCALE, R113: every lane multiplied by the factor and clamped to the current range, which is kept. -/
def execPvscale (factor : Word) (s : State) : Result :=
  let r := s.pv.range
  let pv := ((s.pv.values.scale (fx factor)).clampTo r).store r
  .next ((s.setPv pv).setStatus statusOk)

/-- PVVALUES, R114: the lanes copied to the result words. -/
def execPvvalues (s : State) : Result :=
  .next ((s.setRes s.pv.fl s.pv.fr s.pv.bl s.pv.br).setStatus statusOk)

end Sys2Proof.Machine
end

