-- ==== Sys2Proof/Machine/Dispatch.lean ====
section
/-! DEFINITION. The dispatch: one arm per row of the opcode table (spec/30_encoding.md R99). -/

namespace Sys2Proof.Machine

open Sys2Proof

def exec (i : Instr) (s : State) : Host.Outcome State Fault Refusal :=
  match i with
  | .nop => Sys2Proof.Machine.execNop s
  | .pvnew r fl fr bl br => Sys2Proof.Machine.execPvnew r fl fr bl br s
  | .pvset fl fr bl br => Sys2Proof.Machine.execPvset fl fr bl br s
  | .pvscale factor => Sys2Proof.Machine.execPvscale factor s
  | .pvvalues => Sys2Proof.Machine.execPvvalues s
  | .move2w m => Sys2Proof.Machine.execMove2w m s
  | .move4d m => Sys2Proof.Machine.execMove4d m s
  | .move4m m => Sys2Proof.Machine.execMove4m m s
  | .mecanum p lat lon rot => Sys2Proof.Machine.execMecanum p lat lon rot s
  | .encdc src emit cha chb => Sys2Proof.Machine.execEncdc src emit cha chb s
  | .encang src kind emit cha => Sys2Proof.Machine.execEncang src kind emit cha s
  | .enccrs src emit cha slot => Sys2Proof.Machine.execEnccrs src emit cha slot s
  | .calwr slot points => Sys2Proof.Machine.execCalwr slot points s
  | .calrd slot => Sys2Proof.Machine.execCalrd slot s

end Sys2Proof.Machine
end

