-- ==== Sys2Proof/Machine/Step.lean ====
section
/-! DEFINITION. One step of the machine: one input taken from the port (spec/10_state.md R30, R32;
spec/20_memory.md R66, R70; spec/70_reset_and_hazards.md R231, R238). -/

namespace Sys2Proof.Machine

open Sys2Proof

/-- One command transaction performed (R66): a legal command by its own rule, an illegal word by R97. -/
def perform (t : Transaction) (s : State) : Host.Outcome State Fault Refusal :=
  match decode t with
  | .ok i => exec i s
  | .error _ => .next s.illegalCommand

/-- One step: the next input of the port takes effect. With no input the block waits and holds its state
(R215, R231; log 2). -/
def step (s : State) : Host.Outcome State Fault Refusal :=
  match s.port with
  | [] => .next s
  | .command t :: _ => perform t s.takeInput
  | .reset :: _ => .next s.takeInput.applyReset

/-- `s` with the transaction whose bits are `w` presented as its next input (log 5). -/
def State.withFetchWord (s : State) (nbits w : Nat) : State :=
  s.present (.command (Transaction.ofTableWord nbits w))

end Sys2Proof.Machine
end

