-- ==== Sys2Proof/Machine/Assembler.lean ====
section
/-! DEFINITION. The assembler text of AMK-CMD v1 (spec/30_encoding.md R100), its pseudo-instructions
(R101) and the disassembly (R102). Text is a list of characters; what the rules leave open of the text
(blanks, case, signs) is log 14. -/

namespace Sys2Proof.Machine

open Sys2Proof

/-- A line of assembler text. -/
abbrev Text := List Char

/-- Why a line is not assembled. The names, and which one a line with several faults gets, are the model's
(DESIGN CHOICE, log 14). -/
inductive AsmError where
  | unknownMnemonic
  | operandCount
  | badOperand
  | outOfRange
  deriving DecidableEq, Repr

/-! ## Lexing -/

/-- Blanks separate the mnemonic from the operands and may stand around an operand (log 14). -/
def isBlank (c : Char) : Bool := c == ' ' || c == '\t'

/-- A text without the blanks at its two ends. -/
def trimBlanks (t : Text) : Text := ((t.dropWhile isBlank).reverse.dropWhile isBlank).reverse

/-- R100: `;` starts a comment. -/
def withoutComment (t : Text) : Text := t.takeWhile (fun c => c != ';')

/-- The pieces of a text between its commas. -/
def splitCommas : Text → List Text
  | [] => [[]]
  | c :: rest =>
    match splitCommas rest with
    | [] => [[c]]
    | p :: ps => if c == ',' then [] :: p :: ps else (c :: p) :: ps

/-- R100: the comma-separated operands, none where only blanks stand. -/
def operandTexts (t : Text) : List Text :=
  if (trimBlanks t).isEmpty then [] else (splitCommas t).map trimBlanks

/-! ## Operands -/

/-- A decimal digit's value. -/
def digitValue (c : Char) : Option Nat :=
  if 48 ≤ c.toNat ∧ c.toNat ≤ 57 then some (c.toNat - 48) else none

/-- A decimal integer: one digit or more. -/
def parseNat (t : Text) : Option Nat :=
  if t.isEmpty then none
  else (t.mapM digitValue).map (fun ds => ds.foldl (fun n d => 10 * n + d) 0)

/-- A decimal number without a sign: an integer and, after a point, an optional fraction (R100). -/
def parseUnsigned (t : Text) : Option ℚ :=
  let whole := t.takeWhile (fun c => c != '.')
  match t.dropWhile (fun c => c != '.') with
  | [] => (parseNat whole).map (fun n => (n : ℚ))
  | _ :: frac =>
    match parseNat whole, parseNat frac with
    | some n, some f => some ((n : ℚ) + (f : ℚ) / ((10 ^ frac.length : Nat) : ℚ))
    | _, _ => none

/-- A decimal number with an optional minus sign. -/
def parseDecimal (t : Text) : Option ℚ :=
  match t with
  | '-' :: rest => (parseUnsigned rest).map (fun x => -x)
  | _ => parseUnsigned t

/-- R100: a numeric value operand, converted by `rnd(x * 65536)` and refused outside the 32-bit range. -/
def parseValue (t : Text) : Except AsmError Word :=
  match parseDecimal t with
  | none => .error .badOperand
  | some x =>
    let n := rnd (x * (Config.ONE : ℚ))
    if -(2 ^ 31) ≤ n ∧ n ≤ 2 ^ 31 - 1 then .ok (BitVec.ofInt 32 n) else .error .outOfRange

/-- R100: a decimal integer in range of a field of `n` bits. -/
def parseField (n : Nat) (t : Text) : Except AsmError (BitVec n) :=
  match parseNat t with
  | none => .error .badOperand
  | some k => if k < 2 ^ n then .ok (BitVec.ofNat n k) else .error .outOfRange

/-- A slot operand. -/
def parseSlot (t : Text) : Except AsmError Slot :=
  match parseField 4 t with
  | .ok b => .ok b.toFin
  | .error e => .error e

/-- R91: the assembler names of the moves. -/
def moveName : Move → String
  | .stop => "STOP"
  | .north => "N"
  | .northEast => "NE"
  | .east => "E"
  | .southEast => "SE"
  | .south => "S"
  | .southWest => "SW"
  | .west => "W"
  | .northWest => "NW"
  | .clockWise => "CW"
  | .counterClockWise => "CCW"

/-- The moves in code order. -/
def moves : List Move :=
  [.stop, .north, .northEast, .east, .southEast, .south, .southWest, .west, .northWest,
   .clockWise, .counterClockWise]

/-- R100: a move operand, a name of R91 or `#k` for a raw code. -/
def parseMove (t : Text) : Except AsmError MoveArg :=
  match t with
  | '#' :: k =>
    match parseField 4 k with
    | .ok b => .ok (.ofBits b)
    | .error e => .error e
  | _ =>
    match moves.find? (fun m => (moveName m).toList == t) with
    | some m => .ok (.named m)
    | none => .error .badOperand

/-- R100: the lane names of the `src` operand. -/
def laneName : Lane → String
  | .fl => "fl"
  | .fr => "fr"
  | .bl => "bl"
  | .br => "br"

/-- R100: a lane name. -/
def parseLane (t : Text) : Except AsmError Lane :=
  match [Lane.fl, .fr, .bl, .br].find? (fun l => (laneName l).toList == t) with
  | some l => .ok l
  | none => .error .badOperand

/-- R100: the `src` operand, `#v` (`S = 0`, `LANE = 0`) or a lane name (`S = 1`). -/
def parseSource (t : Text) : Except AsmError Source :=
  match t with
  | '#' :: v =>
    match parseValue v with
    | .ok w => .ok (.operand .fl w)
    | .error e => .error e
  | _ =>
    match parseLane t with
    | .ok l => .ok (.lane l)
    | .error e => .error e

/-- R100: the `lim` operand of ENCANG, `L = 0` for 90 and `L = 1` for 135. R100 says nothing of any other text:
that the operand is read as a decimal integer, so that `90.0` is refused, and that every other integer is
refused too, is the model's choice (DESIGN CHOICE, log 14; safe for the block, which sees no text). -/
def parseLimit (t : Text) : Except AsmError ServoKind :=
  match parseNat t with
  | none => .error .badOperand
  | some n =>
    if n = Config.ANG_LIM_180 then .ok .deg180
    else if n = Config.ANG_LIM_270 then .ok .deg270
    else .error .outOfRange

/-! ## Pseudo-instructions -/

/-- R101: `PVSET2 fl, fr`. -/
def pvset2 (fl fr : Word) : Instr := .pvset fl fr 0 0

/-- R101: `PVCLEAR`. -/
def pvclear : Instr := .pvset 0 0 0 0

/-- R101: `STOP.2W`. -/
def stop2w : Instr := .move2w (.named .stop)

/-- R101: `STOP.4D`. -/
def stop4d : Instr := .move4d (.named .stop)

/-- R101: `STOP.4M`. -/
def stop4m : Instr := .move4m (.named .stop)

/-- R101: `CALDEF slot`. -/
def caldef (slot : Slot) : Instr := .calwr slot Config.CRS_DEFAULT

/-- R101: `ENCPV.DC lane, cha, chb`. -/
def encpvDc (lane : Lane) (cha chb : Channel) : Instr := .encdc (.lane lane) true cha chb

/-! ## Assembly -/

/-- The mnemonics of R100 and R101, with their suffixes. -/
inductive AsmOp where
  | nop | pvnew (r : PvRange) | pvset | pvscale | pvvalues | move2w | move4d | move4m
  | mecanum (p : InputScale) | encdc (emit : Bool) | encang (emit : Bool) | enccrs (emit : Bool)
  | calwr | calrd | pvset2 | pvclear | stop2w | stop4d | stop4m | caldef | encpvDc
  deriving DecidableEq, Repr

/-- R100, R101: the spelling of each mnemonic. -/
def asmOps : List (String × AsmOp) :=
  [("NOP", .nop), ("PVNEW", .pvnew .signed), ("PVNEW.U", .pvnew .unsigned), ("PVSET", .pvset),
   ("PVSCALE", .pvscale), ("PVVALUES", .pvvalues), ("MOVE.2W", .move2w), ("MOVE.4D", .move4d),
   ("MOVE.4M", .move4m), ("MECANUM", .mecanum .unit), ("MECANUM.P", .mecanum .percent),
   ("ENCDC", .encdc false), ("ENCDC.E", .encdc true), ("ENCANG", .encang false),
   ("ENCANG.E", .encang true), ("ENCCRS", .enccrs false), ("ENCCRS.E", .enccrs true),
   ("CALWR", .calwr), ("CALRD", .calrd), ("PVSET2", .pvset2), ("PVCLEAR", .pvclear),
   ("STOP.2W", .stop2w), ("STOP.4D", .stop4d), ("STOP.4M", .stop4m), ("CALDEF", .caldef),
   ("ENCPV.DC", .encpvDc)]

/-- R100: the operands of ENCDC; without `.E` the channels may be omitted and are then 0. -/
def assembleEncdc (emit : Bool) (ops : List Text) : Except AsmError Instr :=
  match emit, ops with
  | _, [src, cha, chb] => do
      return .encdc (← parseSource src) emit (← parseField 4 cha) (← parseField 4 chb)
  | false, [src] => do return .encdc (← parseSource src) false 0 0
  | _, _ => .error .operandCount

/-- R100: the operands of ENCANG; without `.E` the channel may be omitted and is then 0. -/
def assembleEncang (emit : Bool) (ops : List Text) : Except AsmError Instr :=
  match emit, ops with
  | _, [src, cha, lim] => do
      return .encang (← parseSource src) (← parseLimit lim) emit (← parseField 4 cha)
  | false, [src, lim] => do return .encang (← parseSource src) (← parseLimit lim) false 0
  | _, _ => .error .operandCount

/-- R100: the operands of ENCCRS; without `.E` the channel may be omitted and is then 0. -/
def assembleEnccrs (emit : Bool) (ops : List Text) : Except AsmError Instr :=
  match emit, ops with
  | _, [src, cha, slot] => do
      return .enccrs (← parseSource src) emit (← parseField 4 cha) (← parseSlot slot)
  | false, [src, slot] => do return .enccrs (← parseSource src) false 0 (← parseSlot slot)
  | _, _ => .error .operandCount

/-- R100, R101: the instruction a mnemonic and its operands encode. -/
def assembleInstr (op : AsmOp) (ops : List Text) : Except AsmError Instr :=
  match op, ops with
  | .nop, [] => .ok .nop
  | .pvnew r, [a, b, c, d] => do
      return .pvnew r (← parseValue a) (← parseValue b) (← parseValue c) (← parseValue d)
  | .pvset, [a, b, c, d] => do
      return .pvset (← parseValue a) (← parseValue b) (← parseValue c) (← parseValue d)
  | .pvscale, [f] => do return .pvscale (← parseValue f)
  | .pvvalues, [] => .ok .pvvalues
  | .move2w, [m] => do return .move2w (← parseMove m)
  | .move4d, [m] => do return .move4d (← parseMove m)
  | .move4m, [m] => do return .move4m (← parseMove m)
  | .mecanum p, [a, b, c] => do
      return .mecanum p (← parseValue a) (← parseValue b) (← parseValue c)
  | .encdc emit, ops => assembleEncdc emit ops
  | .encang emit, ops => assembleEncang emit ops
  | .enccrs emit, ops => assembleEnccrs emit ops
  | .calwr, [slot, maxb, minb, stop, minf, maxf] => do
      return .calwr (← parseSlot slot)
        { maxb := ← parseField 12 maxb, minb := ← parseField 12 minb, stop := ← parseField 12 stop
          minf := ← parseField 12 minf, maxf := ← parseField 12 maxf }
  | .calrd, [slot] => do return .calrd (← parseSlot slot)
  | .pvset2, [a, b] => do return Sys2Proof.Machine.pvset2 (← parseValue a) (← parseValue b)
  | .pvclear, [] => .ok Sys2Proof.Machine.pvclear
  | .stop2w, [] => .ok Sys2Proof.Machine.stop2w
  | .stop4d, [] => .ok Sys2Proof.Machine.stop4d
  | .stop4m, [] => .ok Sys2Proof.Machine.stop4m
  | .caldef, [slot] => do return Sys2Proof.Machine.caldef (← parseSlot slot)
  | .encpvDc, [lane, cha, chb] => do
      return Sys2Proof.Machine.encpvDc (← parseLane lane) (← parseField 4 cha) (← parseField 4 chb)
  | _, _ => .error .operandCount

/-- R100: one line of text, `none` for a line without a command. -/
def assembleLine (line : Text) : Except AsmError (Option Transaction) :=
  let t := trimBlanks (withoutComment line)
  if t.isEmpty then .ok none
  else
    let mnemonic := t.takeWhile (fun c => !isBlank c)
    match asmOps.find? (fun e => e.1.toList == mnemonic) with
    | none => .error .unknownMnemonic
    | some e =>
      match assembleInstr e.2 (operandTexts (t.dropWhile (fun c => !isBlank c))) with
      | .ok i => .ok (some (encode i))
      | .error err => .error err

/-! ## Disassembly -/

/-- A decimal integer's text. -/
def natText (n : Nat) : Text := Nat.toDigits 10 n

/-- The hexadecimal digit of a value below 16, a capital letter from ten on (as R9 and R99 write words). -/
def hexDigit (n : Nat) : Char := (Nat.digitChar n).toUpper

/-- A word as eight hexadecimal digits. -/
def hexText (w : Word) : Text :=
  [28, 24, 20, 16, 12, 8, 4, 0].map (fun lo => hexDigit (bits w lo 4).toNat)

/-- The sixteen decimal digits of a fraction `f / 65536`, which are exact since `10 ^ 16 / 65536` is an
integer. -/
def fractionDigits (f : Nat) : Text :=
  let ds := natText (f * (10 ^ 16 / Config.ONE))
  List.replicate (16 - ds.length) '0' ++ ds

/-- The exact decimal text of a Q16.16 word's value (log 14). -/
def valueText (w : Word) : Text :=
  let n := w.toInt.natAbs
  let frac := ((fractionDigits (n % Config.ONE)).reverse.dropWhile (fun c => c == '0')).reverse
  (if w.toInt < 0 then ['-'] else []) ++ natText (n / Config.ONE) ++
    (if frac.isEmpty then [] else '.' :: frac)

/-- R102: a move code as its name, or `#k` outside the Move set. -/
def moveText : MoveArg → Text
  | .named m => (moveName m).toList
  | .unknown code => '#' :: natText code.toNat

/-- R102: the `src` operand. -/
def sourceText : Source → Text
  | .operand _ v => '#' :: valueText v
  | .lane l => (laneName l).toList

/-- The `lim` operand. -/
def limitText : ServoKind → Text
  | .deg180 => natText Config.ANG_LIM_180
  | .deg270 => natText Config.ANG_LIM_270

/-- A mnemonic and its operands as R100 writes them. -/
def lineText (mnemonic : String) (ops : List Text) : Text :=
  mnemonic.toList ++ (if ops.isEmpty then [] else ' ' :: (List.intersperse [',', ' '] ops).flatten)

/-- R102: an instruction in the syntax of R100 with every field shown. -/
def instrText : Instr → Text
  | .nop => lineText "NOP" []
  | .pvnew r fl fr bl br =>
      lineText (match r with | .signed => "PVNEW" | .unsigned => "PVNEW.U")
        [valueText fl, valueText fr, valueText bl, valueText br]
  | .pvset fl fr bl br => lineText "PVSET" [valueText fl, valueText fr, valueText bl, valueText br]
  | .pvscale f => lineText "PVSCALE" [valueText f]
  | .pvvalues => lineText "PVVALUES" []
  | .move2w m => lineText "MOVE.2W" [moveText m]
  | .move4d m => lineText "MOVE.4D" [moveText m]
  | .move4m m => lineText "MOVE.4M" [moveText m]
  | .mecanum p lat lon rot =>
      lineText (match p with | .unit => "MECANUM" | .percent => "MECANUM.P")
        [valueText lat, valueText lon, valueText rot]
  | .encdc src emit cha chb =>
      lineText (if emit then "ENCDC.E" else "ENCDC")
        [sourceText src, natText cha.toNat, natText chb.toNat]
  | .encang src kind emit cha =>
      lineText (if emit then "ENCANG.E" else "ENCANG")
        [sourceText src, natText cha.toNat, limitText kind]
  | .enccrs src emit cha slot =>
      lineText (if emit then "ENCCRS.E" else "ENCCRS")
        [sourceText src, natText cha.toNat, natText slot.val]
  | .calwr slot c =>
      lineText "CALWR"
        [natText slot.val, natText c.maxb.toNat, natText c.minb.toNat, natText c.stop.toNat,
         natText c.minf.toNat, natText c.maxf.toNat]
  | .calrd slot => lineText "CALRD" [natText slot.val]

/-- R102: the text of a transaction, `.word 0x<hex>` for an illegal word. -/
def disassemble (t : Transaction) : Text :=
  match decode t with
  | .ok i => instrText i
  | .error _ => ".word 0x".toList ++ hexText t.cmd

end Sys2Proof.Machine
end

