-- ==== Sys2Proof/Safety.lean ====
section
/-! DEFINITION. The terms claims are stated in: the invariant of the registers (spec/10_state.md R36, R40,
R46), runs as left folds (spec/20_memory.md R70), which words a format admits (spec/30_encoding.md R82),
the move tables as written words, and integer forms of the arithmetic, which divide once with a floor
where the meanings work in exact rationals. None of these is used by a meaning. -/

namespace Sys2Proof.Safety

open Sys2Proof Sys2Proof.Machine

/-! ## The invariant -/

/-- R36: the least signed lane word of a range. -/
def laneLo : PvRange → ℤ
  | .signed => -65536
  | .unsigned => 0

/-- R36: the signed value of `w` lies within a range's bounds. -/
abbrev LaneInRange (r : PvRange) (w : Word) : Prop := laneLo r ≤ w.toInt ∧ w.toInt ≤ 65536

/-- R36: every lane lies in the range `PV.R` selects. -/
abbrev PvInRange (pv : PowerVector) : Prop :=
  LaneInRange pv.range pv.fl ∧ LaneInRange pv.range pv.fr ∧
  LaneInRange pv.range pv.bl ∧ LaneInRange pv.range pv.br

/-- R205: the three values `STATUS` takes. -/
abbrev StatusLegal (w : Word) : Prop := w = 0x00000000 ∨ w = 0x00000001 ∨ w = 0x00000002

/-- R46: every pulse write has `on = 0`. -/
abbrev OutLegal (out : List PulseWrite) : Prop := ∀ w ∈ out, w.on = 0

/-- What holds of the registers after reset and after every step (R36, R40, R46). -/
structure Inv (s : State) : Prop where
  pv : PvInRange s.pv
  status : StatusLegal s.status
  out : OutLegal s.out

/-! ## Runs -/

/-- The state after one transaction; the state itself where `perform` did not answer a next state. -/
def after (s : State) (t : Transaction) : State :=
  match perform t s with
  | .next s' => s'
  | _ => s

/-- R70: the left fold of the command rules over a list of transactions. -/
def afterAll (s : State) (ts : List Transaction) : State := ts.foldl after s

/-! ## Formats -/

/-- R98: the opcodes that are not reserved. -/
def opcodes : List (BitVec 8) :=
  [0x00, 0x01, 0x02, 0x03, 0x04, 0x10, 0x11, 0x20, 0x21, 0x22, 0x30, 0x31]

/-- R82: the bits of 23:0 that the format of an opcode shows as 0. In format MV bits 5:4 are the layout. -/
def formatZeros (op : BitVec 8) : BitVec 24 :=
  if op = 0x01 ∨ op = 0x11 then 0xFFFFFE
  else if op = 0x10 then 0xFFFFC0
  else if op = 0x20 then 0xFFF000
  else if op = 0x21 then 0xFFE0F0
  else if op = 0x22 then 0xF0F0F0
  else if op = 0x30 ∨ op = 0x31 then 0xF0FFFF
  else 0xFFFFFF

/-- How many operand words a row's rule reads, counted from `OPA` (R65, the operand lines of R110 to R181). -/
def operandsRead : Row → Nat
  | .nop => 0
  | .pvnew => 4
  | .pvset => 4
  | .pvscale => 1
  | .pvvalues => 0
  | .move2w => 0
  | .move4d => 0
  | .move4m => 0
  | .mecanum => 3
  | .encdc => 1
  | .encang => 1
  | .enccrs => 1
  | .calwr => 3
  | .calrd => 0

/-- Two transactions with one command word that agree on the first `n` operand words. -/
def agreeOn (n : Nat) (t u : Transaction) : Prop :=
  t.cmd = u.cmd ∧ (1 ≤ n → t.opa = u.opa) ∧ (2 ≤ n → t.opb = u.opb) ∧ (3 ≤ n → t.opc = u.opc) ∧
    (4 ≤ n → t.opd = u.opd)

/-- R203: the moves a command reports as unsupported, by code. -/
def reportsUnsupported : Instr → Bool
  | .move2w m => [2, 3, 4, 6, 7, 8, 11, 12, 13, 14, 15].contains m.toBits.toNat
  | .move4d m => [2, 3, 4, 6, 7, 8, 11, 12, 13, 14, 15].contains m.toBits.toNat
  | .move4m m => [11, 12, 13, 14, 15].contains m.toBits.toNat
  | _ => false

/-- R31, column "written by", row `PV`: the commands that write the Power Vector. -/
def writesPv : Row → Bool
  | .pvnew | .pvset | .pvscale | .move2w | .move4d | .move4m | .mecanum => true
  | _ => false

/-- R31, column "written by", row `PV.R`: the commands that write the range. PVSET and PVSCALE keep it (R35). -/
def writesRange : Row → Bool
  | .pvnew | .move2w | .move4d | .move4m | .mecanum => true
  | _ => false

/-- R31: the commands that write the result words. -/
def writesRes : Row → Bool
  | .pvvalues | .calrd => true
  | _ => false

/-- R31: the commands that write the pulse registers. -/
def writesPulses : Row → Bool
  | .encdc | .encang | .enccrs => true
  | _ => false

/-- R31, column "written by", row `OUT`: the encoders with `EMIT = 1`. -/
def writesOut : Instr → Bool
  | .encdc _ emit _ _ => emit
  | .encang _ _ emit _ => emit
  | .enccrs _ emit _ _ => emit
  | _ => false

/-- R151: the pulse writes a command appends to `OUT` when its counts are `a` and `b`. -/
def emitted (i : Instr) (a b : PulseCount) : List PulseWrite :=
  match i with
  | .encdc _ true cha chb => [⟨cha, 0, a⟩, ⟨chb, 0, b⟩]
  | .encang _ _ true cha => [⟨cha, 0, a⟩]
  | .enccrs _ true cha _ => [⟨cha, 0, a⟩]
  | _ => []

/-- R67: the commands that are idempotent. -/
def idempotent : Instr → Bool
  | .pvscale _ => false
  | .encdc _ emit _ _ => !emit
  | .encang _ _ emit _ => !emit
  | .enccrs _ emit _ _ => !emit
  | _ => true

/-! ## Move tables as words -/

/-- The Q16.16 word of 1, 0 or -1 as R131 writes it; 0 for any other integer. -/
def unitWord (n : ℤ) : Word := if n = 1 then 0x00010000 else if n = -1 then 0xFFFF0000 else 0x00000000

/-- A signed Power Vector with whole lanes. -/
def unitPv (fl fr bl br : ℤ) : PowerVector :=
  { fl := unitWord fl, fr := unitWord fr, bl := unitWord bl, br := unitWord br, range := .signed }

/-- R131, column MOVE.2W, by move code: the lanes and `UNSUP`. -/
def table2w (code : BitVec 4) : PowerVector × Word :=
  match code.toNat with
  | 0 => (unitPv 0 0 0 0, 0)
  | 1 => (unitPv 1 1 0 0, 0)
  | 5 => (unitPv (-1) (-1) 0 0, 0)
  | 9 => (unitPv (-1) 1 0 0, 0)
  | 10 => (unitPv 1 (-1) 0 0, 0)
  | _ => (unitPv 0 0 0 0, 1)

/-- R131, column MOVE.4D, by move code. -/
def table4d (code : BitVec 4) : PowerVector × Word :=
  match code.toNat with
  | 0 => (unitPv 0 0 0 0, 0)
  | 1 => (unitPv 1 1 1 1, 0)
  | 5 => (unitPv (-1) (-1) (-1) (-1), 0)
  | 9 => (unitPv (-1) 1 (-1) 1, 0)
  | 10 => (unitPv 1 (-1) 1 (-1), 0)
  | _ => (unitPv 0 0 0 0, 1)

/-- R134, by move code and `SOUTH_HIST`. -/
def table4m (southHist : Bool) (code : BitVec 4) : PowerVector × Word :=
  match code.toNat with
  | 0 => (unitPv 0 0 0 0, 0)
  | 1 => (unitPv 1 1 1 1, 0)
  | 2 => (unitPv 0 1 0 1, 0)
  | 3 => (unitPv (-1) 1 (-1) 1, 0)
  | 4 => (unitPv (-1) 0 (-1) 0, 0)
  | 5 => (if southHist then unitPv 0 (-1) (-1) 0 else unitPv (-1) (-1) (-1) (-1), 0)
  | 6 => (unitPv 0 (-1) (-1) 0, 0)
  | 7 => (unitPv 1 (-1) 1 (-1), 0)
  | 8 => (unitPv 1 0 1 0, 0)
  | 9 => (unitPv 1 1 (-1) (-1), 0)
  | 10 => (unitPv (-1) (-1) 1 1, 0)
  | _ => (unitPv 0 0 0 0, 1)

/-! ## Integer forms -/

/-- The integer nearest to `n` in `[lo, hi]`. -/
def clampInt (n lo hi : ℤ) : ℤ := min hi (max lo n)

/-- A lane word from a Q16.16 integer, clamped to a range. -/
def laneOf (r : PvRange) (n : ℤ) : Word := BitVec.ofInt 32 (clampInt n (laneLo r) 65536)

/-- The Q16.16 integer nearest to the product of two Q16.16 words, a tie going up. -/
def productInt (a b : Word) : ℤ := (2 * (a.toInt * b.toInt) + 65536) / 131072

/-- A clamped MECANUM input as a numerator over 65536, or over 65536 * 100 on the percent scale. -/
def motionInt : InputScale → Word → ℤ
  | .unit, w => clampInt w.toInt (-65536) 65536
  | .percent, w => clampInt w.toInt (-6553600) 6553600

/-- The Q16.16 word of `n / r` rounded to nearest, a tie going up; 0 where `r = 0`. -/
def quotientWord (n r : ℤ) : Word :=
  if r = 0 then 0 else BitVec.ofInt 32 ((2 * (65536 * n) + r) / (2 * r))

/-- MECANUM's Power Vector from its three clamped numerators. -/
def mecanumInt (lat lon rot : ℤ) : PowerVector :=
  let r := |lat| + |lon| + |rot|
  { fl := quotientWord (lat + lon + rot) r
    fr := quotientWord (lat - lon - rot) r
    bl := quotientWord (lat - lon + rot) r
    br := quotientWord (lat + lon - rot) r
    range := .signed }

/-- The word an encoder command takes its value from. -/
def sourceWord (src : Source) (s : State) : Word :=
  match src with
  | .operand _ v => v
  | .lane l => s.pv.lane l

/-- R93: the source of an encoder transaction, `LANE` in bits 9:8 and `S` in bit 10. -/
def sourceField (t : Transaction) : Source :=
  let l : Lane :=
    match t.cmd.toNat / 256 % 4 with
    | 0 => .fl
    | 1 => .fr
    | 2 => .bl
    | _ => .br
  if t.cmd.getLsbD 10 then .lane l else .operand l t.opa

/-- The brushed DC magnitude of a Q16.16 word. -/
def dcInt (w : Word) : PulseCount :=
  BitVec.ofInt 12 ((2 * (|clampInt w.toInt (-65536) 65536| * 4095) + 65536) / 131072)

/-- The angular tick count of a Q16.16 word: `(d + 60) * 65536 / 32000` for `d` degrees, rounded, with
negative counts cut to 0. -/
def angInt (w : Word) (kind : ServoKind) : PulseCount :=
  let lim : ℤ := match kind with | .deg180 => 90 * 65536 | .deg270 => 135 * 65536
  BitVec.ofInt 12 (max 0 ((clampInt w.toInt (-lim) lim + 60 * 65536 + 16000) / 32000))

/-- The continuous-rotation count of a Q16.16 word for a calibration. -/
def crsInt (w : Word) (c : Calibration) : PulseCount :=
  let a := clampInt w.toInt (-65536) 65536
  if a = 0 then c.stop
  else if 0 < a then
    BitVec.ofInt 12
      ((2 * (65536 * (c.minf.toNat : ℤ) + a * (c.maxf.toNat - c.minf.toNat)) + 65536) / 131072)
  else
    BitVec.ofInt 12
      ((2 * (65536 * (c.minb.toNat : ℤ) + (-a) * (c.maxb.toNat - c.minb.toNat)) + 65536) / 131072)

end Sys2Proof.Safety
end

