-- ==== Sys2Proof/Certificates/Slice0/Obligations.lean ====
section
/-! DEFINITION. The statements for the provers, one `def Obligations.<Name> : Prop` each; OBLIGATIONS.json
lists them with the rules of spec/ they formalise. -/

open Sys2Proof Sys2Proof.Machine Sys2Proof.Safety

/-! ## Encoding -/

/-- Decoding the transaction of a well-formed instruction gives the instruction back, with every field
and every operand word at every value (30_encoding.md R82 to R96). -/
def Obligations.DecodeEncodeRoundTrip : Prop :=
  ∀ i : Instr, i.wellFormed = true → decode (encode i) = .ok i

/-- The same over serialised bytes, little-endian (20_memory.md R62), whatever bytes follow. That the words
stand in R80's order, `CMD` first, is the model's reading (log 6). -/
def Obligations.DecodeBytesOfEncodeBytes : Prop :=
  ∀ (i : Instr) (rest : List Byte), i.wellFormed = true →
    decodeBytes (encodeBytes i ++ rest) = .ok (i, rest)

/-- A decoded instruction is well-formed, and encoding it gives the same command word. The rules fix the
fields (R82 to R93); that the instruction also keeps the fields its command ignores (`LANE` with `S = 0`,
channels with `EMIT = 0`), so that the word comes back whole, is the model's choice (log 7). -/
def Obligations.DecodedWordIsKept : Prop :=
  ∀ (t : Transaction) (i : Instr), decode t = .ok i →
    i.wellFormed = true ∧ (encode i).cmd = t.cmd

/-- R96: `decode(CMD)` is the row whose mask and match the word satisfies, `illegal` exactly when no row's
are, so at most one row matches. -/
def Obligations.DecodeIsTheUniqueRow : Prop :=
  ∀ cmd : Word,
    (∀ r : Row, decodeRow cmd = some r ↔ cmd &&& r.mask = r.value) ∧
    (decodeRow cmd = none ↔ ∀ r : Row, cmd &&& r.mask ≠ r.value)

/-- R98, R82: the illegal words are exactly those with a reserved opcode, with `LAY = 3`, or with a 1 in
a bit their format shows as 0. -/
def Obligations.IllegalWordsAreTheReservedOnes : Prop :=
  ∀ cmd : Word,
    decodeRow cmd = none ↔
      bits cmd 24 8 ∉ opcodes ∨ (bits cmd 24 8 = 0x10 ∧ bits cmd 4 2 = 3) ∨
        bits cmd 0 24 &&& formatZeros (bits cmd 24 8) ≠ 0

/-- R98, R110: the one command word that decodes to NOP is 0x00000000, whatever the operand words. -/
def Obligations.OnlyTheZeroWordIsNop : Prop :=
  ∀ t : Transaction, decode t = .ok .nop ↔ t.cmd = 0x00000000

/-- R64, R80: fewer than the twenty bytes of a transaction are no command. That the decoder calls it
`truncated` is the model's name (log 13). -/
def Obligations.PartialTransactionIsNoCommand : Prop :=
  ∀ bs : List Byte, bs.length < 20 → decodeBytes bs = .error .truncated

/-- 95_test_vectors.md T9 and the programs P1 to P3: words written out from R99 decode to the
instructions they stand for, and the words T9 lists as illegal are rejected. -/
def Obligations.SpecWordsDecode : Prop :=
  decodeTableWord 32 0x00000000 = some .nop ∧
  decodeTableWord 32 0x01000001 = some (.pvnew .unsigned 0 0 0 0) ∧
  decodeTableWord 32 0x1000002F = some (.move4m (.unknown 15)) ∧
  decodeTableWord 64 0x0032000011000001 = some (.mecanum .percent 0x00320000 0 0) ∧
  decodeTableWord 32 0x20000D32 = some (.encdc (.lane .fr) true 2 3) ∧
  decodeTableWord 64 0xFF38000021001009 = some (.encang (.operand .fl 0xFF380000) .deg270 false 9) ∧
  decodeTableWord 32 0x22010F07 = some (.enccrs (.lane .br) true 7 1) ∧
  decodeTableWord 128 0x00000064010E012C014A01F430010000 =
    some (.calwr 1 ⟨500, 330, 300, 270, 100⟩) ∧
  decodeTableWord 32 0x310F0000 = some (.calrd 15) ∧
  decodeTableWord 32 0x00000001 = none ∧ decodeTableWord 32 0x01000002 = none ∧
  decodeTableWord 32 0x05000000 = none ∧ decodeTableWord 32 0x10000032 = none ∧
  decodeTableWord 32 0x20001000 = none ∧ decodeTableWord 32 0x21000010 = none ∧
  decodeTableWord 32 0x2100E000 = none ∧ decodeTableWord 32 0x30100000 = none

/-- R80, R97: an operand word the command's rule does not read has no effect, nor has any operand word
of an illegal command word, nor `OPA` of an encoder command with `S = 1` (R93, R150). -/
def Obligations.UnreadOperandWordsHaveNoEffect : Prop :=
  ∀ (t u : Transaction) (s : State),
    (∀ r : Row, decodeRow t.cmd = some r → agreeOn (operandsRead r) t u → perform t s = perform u s) ∧
    (decodeRow t.cmd = none → t.cmd = u.cmd → perform t s = perform u s) ∧
    (∀ r : Row, decodeRow t.cmd = some r → r ∈ [Row.encdc, Row.encang, Row.enccrs] →
      bits t.cmd 10 1 = 1 → t.cmd = u.cmd → perform t s = perform u s)

/-- R93, R87, R151: `LANE` has no effect when `S = 0`, and the channel fields have none when `EMIT = 0`. -/
def Obligations.IgnoredFieldsHaveNoEffect : Prop :=
  ∀ (l l' : Lane) (v : Word) (src : Source) (kind : ServoKind) (slot : Slot) (emit : Bool)
    (a b a' b' : Channel) (s : State),
    exec (.encdc (.operand l v) emit a b) s = exec (.encdc (.operand l' v) emit a b) s ∧
    exec (.encang (.operand l v) kind emit a) s = exec (.encang (.operand l' v) kind emit a) s ∧
    exec (.enccrs (.operand l v) emit a slot) s = exec (.enccrs (.operand l' v) emit a slot) s ∧
    exec (.encdc src false a b) s = exec (.encdc src false a' b') s ∧
    exec (.encang src kind false a) s = exec (.encang src kind false a') s ∧
    exec (.enccrs src false a slot) s = exec (.enccrs src false a' slot) s

/-! ## Reset, steps and runs -/

/-- R49: what reset leaves in every register, `SOUTH_HIST` at its default. -/
def Obligations.ResetValues : Prop :=
  State.reset.pv =
    { fl := 0x00000000, fr := 0x00000000, bl := 0x00000000, br := 0x00000000, range := .signed } ∧
  State.reset.res0 = 0x00000000 ∧ State.reset.res1 = 0x00000000 ∧
  State.reset.res2 = 0x00000000 ∧ State.reset.res3 = 0x00000000 ∧
  State.reset.pulseA = 0 ∧ State.reset.pulseB = 0 ∧ State.reset.status = 0x00000000 ∧
  (∀ slot : Slot, State.reset.calSlot slot =
    { maxb := 85, minb := 285, stop := 310, minf := 335, maxf := 535 }) ∧
  State.reset.out = [] ∧ State.reset.southHist = false

/-- R230, R231: reset applied between two commands, from every state, sets every register to its reset
value, emits nothing, and leaves `SOUTH_HIST` and the host's later inputs alone. That reset is an input of
the port is the model's form (log 3). -/
def Obligations.ResetBetweenCommands : Prop :=
  ∀ (s : State) (rest : List HostInput), s.port = .reset :: rest →
    step s = .next
      { pv := { fl := 0x00000000, fr := 0x00000000, bl := 0x00000000, br := 0x00000000,
                range := .signed }
        res0 := 0x00000000, res1 := 0x00000000, res2 := 0x00000000, res3 := 0x00000000
        pulseA := 0, pulseB := 0
        status := 0x00000000
        cal := Vector.replicate 16 { maxb := 85, minb := 285, stop := 310, minf := 335, maxf := 535 }
        out := []
        southHist := s.southHist
        port := rest }

/-- The invariant of the registers holds at reset (R36, R40, R46, R49). -/
def Obligations.ResetHasInv : Prop := Inv State.reset

/-- Every step keeps the invariant: lanes in the range `PV.R` selects, `STATUS` one of its three values,
every pulse write with `on = 0` (R36, R40, R46, R205). -/
def Obligations.StepKeepsInv : Prop :=
  ∀ s s' : State, Inv s → step s = .next s' → Inv s'

/-- R36: a command that writes the Power Vector leaves every lane in range, from every state, in range
or not. -/
def Obligations.EveryPvWriteIsInRange : Prop :=
  ∀ (i : Instr) (s s' : State), writesPv i.row = true → exec i s = .next s' → PvInRange s'.pv

/-- R201: no command and no command word stops the block: from every state the step answers a next
state. -/
def Obligations.StepNeverStops : Prop :=
  ∀ s : State, ∃ s' : State, step s = .next s'

/-- R66, R70, R97: when the next input is a command transaction that decodes to an instruction, the step is
that instruction's meaning on the state from which only the input has been taken; when its command word is
illegal, the step takes the input and writes `STATUS <- 0x00000002`. That the inputs to come stand in the
state is the model's form (log 1). -/
def Obligations.StepRunsDecodedInstruction : Prop :=
  ∀ (s : State) (t : Transaction) (rest : List HostInput), s.port = .command t :: rest →
    (∀ i : Instr, decode t = .ok i → step s = exec i { s with port := rest }) ∧
    (∀ e : Reject, decode t = .error e →
      step s = .next { s with status := 0x00000002, port := rest })

/-- A transaction presented by its bits is run by the very next step, on the state it was presented to
(log 5). -/
def Obligations.PresentedWordIsRunNext : Prop :=
  ∀ (s : State) (nbits w : Nat) (i : Instr), decodeTableWord nbits w = some i →
    step (s.withFetchWord nbits w) = exec i s

/-- R215, R231: with no input the block holds its state. That such a step answers the same state is the
model's form of waiting (log 2). -/
def Obligations.WaitingHoldsTheState : Prop :=
  ∀ s : State, s.port = [] → step s = .next s

/-- R70, R238: running a list of command transactions from any state gives the left fold of the command
rules over the list, and leaves the inputs after them to come. That the list stands in the state, as the
field `port`, is the model's form (log 1). -/
def Obligations.RunIsTheLeftFold : Prop :=
  ∀ (ts : List Transaction) (rest : List HostInput) (s : State),
    Host.Core.run Sys2Proof.core ts.length
        ({ s with port := ts.map HostInput.command ++ rest } : State) =
      .next ({ afterAll s ts with port := rest } : State)

/-- R97, R204: performing a transaction whose command word is illegal writes `STATUS <- 0x00000002`, changes
nothing else, whatever the operand words, and ends normally. -/
def Obligations.IllegalWordWritesOnlyStatus : Prop :=
  ∀ (t : Transaction) (s : State), (∀ r : Row, t.cmd &&& r.mask ≠ r.value) →
    perform t s = .next { s with status := 0x00000002 }

/-- After a step the inputs to come are the tail of those before it. This is about the model's own field
`port` (log 1), its form of R32 and R207: no command changes which command comes next. That a reset is one
of those inputs and leaves the later ones is the model's form too (log 3). -/
def Obligations.NoCommandChangesTheNextInput : Prop :=
  ∀ s s' : State, step s = .next s' → s'.port = s.port.tail

/-- R48: no input writes `SOUTH_HIST`, no command reads it except MOVE.4M with move South, South's vector
is (-1,-1,-1,-1) with 0 and (0,-1,-1,0) with 1, and the default is 0. -/
def Obligations.SouthHistIsReadOnlyBySouth : Prop :=
  (∀ s s' : State, step s = .next s' → s'.southHist = s.southHist) ∧
  (∀ (i : Instr) (s s' : State) (h : Bool), i ≠ .move4m (.named .south) → exec i s = .next s' →
    exec i { s with southHist := h } = .next { s' with southHist := h }) ∧
  (∀ (s : State) (h : Bool),
    exec (.move4m (.named .south)) { s with southHist := h } =
      .next { s with
        southHist := h
        pv := if h then unitPv 0 (-1) (-1) 0 else unitPv (-1) (-1) (-1) (-1)
        status := 0 }) ∧
  State.reset.southHist = false

/-- R205, R203, R41, R42: `STATUS` after any transaction from any state: 2 after an illegal word, 1 after
an unsupported move, 0 after every other command. -/
def Obligations.StatusAfterEveryCommand : Prop :=
  ∀ (t : Transaction) (s s' : State), perform t s = .next s' →
    (∀ e, decode t = .error e → s'.status = 0x00000002) ∧
    (∀ i, decode t = .ok i →
      s'.status = if reportsUnsupported i then 0x00000001 else 0x00000000)

/-! ## What a command leaves alone -/

/-- R31, R35, R38, R39, R46, R182: each register is written only by the commands that R31 lists for it
(`PV.R` not by PVSET or PVSCALE, `OUT` only by an encoder with `EMIT = 1`), and `SOUTH_HIST` by none. The
last clause, that no command touches the inputs to come, is about the model's own field `port`, its form of
R32 (log 1). -/
def Obligations.RegistersAreWrittenOnlyByTheirCommands : Prop :=
  ∀ (i : Instr) (s s' : State), exec i s = .next s' →
    (writesPv i.row = false → s'.pv = s.pv) ∧
    (writesRange i.row = false → s'.pv.range = s.pv.range) ∧
    (writesRes i.row = false →
      s'.res0 = s.res0 ∧ s'.res1 = s.res1 ∧ s'.res2 = s.res2 ∧ s'.res3 = s.res3) ∧
    (writesPulses i.row = false → s'.pulseA = s.pulseA ∧ s'.pulseB = s.pulseB) ∧
    (writesOut i = false → s'.out = s.out) ∧
    (i.row ≠ .calwr → s'.cal = s.cal) ∧
    s'.southHist = s.southHist ∧ s'.port = s.port

/-- R182: over a step, a calibration slot keeps its value unless the input taken is a CALWR to that very
slot or a reset. -/
def Obligations.CalibrationSlotLifetime : Prop :=
  ∀ (s s' : State) (k : Slot), step s = .next s' →
    (∀ rest, s.port ≠ .reset :: rest) →
    (∀ t rest c, s.port = .command t :: rest → decode t ≠ .ok (.calwr k c)) →
    s'.calSlot k = s.calSlot k

/-- R46, R71, R151: a command only appends to `OUT`: the counts it wrote to the pulse registers, on its
channels, forward before reverse, and only with `EMIT = 1`. -/
def Obligations.OutGrowsByTheEmittedCounts : Prop :=
  ∀ (i : Instr) (s s' : State), exec i s = .next s' →
    s'.out = s.out ++ emitted i s'.pulseA s'.pulseB

/-- R67: the commands R67 lists as idempotent leave the same state when performed twice in a row as when
performed once. -/
def Obligations.ListedCommandsAreIdempotent : Prop :=
  ∀ (i : Instr) (s s' : State), idempotent i = true → exec i s = .next s' → exec i s' = .next s'

/-! ## The Power Vector family -/

/-- R110: NOP writes `STATUS <- 0` and nothing else. Second clause: the words that
encode the command, and the bits its fields are read from. -/
def Obligations.NopResult : Prop :=
  (∀ s : State, exec .nop s = .next { s with status := 0x00000000 }) ∧
  (∀ (t : Transaction) (s : State), t.cmd &&& 0xFFFFFFFF = 0x00000000 →
    perform t s = exec .nop s)

/-- R111: PVNEW stores in each lane the operand's signed word clamped to the selected range, records the
range, and changes nothing else but `STATUS`. Second clause: the words that
encode the command, and the bits its fields are read from. -/
def Obligations.PvnewResult : Prop :=
  (∀ (r : PvRange) (fl fr bl br : Word) (s : State),
     exec (.pvnew r fl fr bl br) s =
       .next { s with
         pv := { fl := laneOf r fl.toInt, fr := laneOf r fr.toInt, bl := laneOf r bl.toInt,
                 br := laneOf r br.toInt, range := r }
         status := 0x00000000 }) ∧
  (∀ (t : Transaction) (s : State), t.cmd &&& 0xFFFFFFFE = 0x01000000 →
    perform t s =
      exec (.pvnew (if t.cmd.getLsbD 0 then .unsigned else .signed) t.opa t.opb t.opc t.opd) s)

/-- R112: PVSET clamps its operands to the current range, which it keeps. Second clause: the words that
encode the command, and the bits its fields are read from. -/
def Obligations.PvsetResult : Prop :=
  (∀ (fl fr bl br : Word) (s : State),
     exec (.pvset fl fr bl br) s =
       .next { s with
         pv := { fl := laneOf s.pv.range fl.toInt, fr := laneOf s.pv.range fr.toInt,
                 bl := laneOf s.pv.range bl.toInt, br := laneOf s.pv.range br.toInt,
                 range := s.pv.range }
         status := 0x00000000 }) ∧
  (∀ (t : Transaction) (s : State), t.cmd &&& 0xFFFFFFFF = 0x02000000 →
    perform t s = exec (.pvset t.opa t.opb t.opc t.opd) s)

/-- R113, R117: PVSCALE's exact product, clamped and rounded once, is the integer product rounded to
nearest with ties up and then clamped; the range is kept. Second clause: the words that
encode the command, and the bits its fields are read from. -/
def Obligations.PvscaleResult : Prop :=
  (∀ (f : Word) (s : State),
     exec (.pvscale f) s =
       .next { s with
         pv := { fl := laneOf s.pv.range (productInt s.pv.fl f)
                 fr := laneOf s.pv.range (productInt s.pv.fr f)
                 bl := laneOf s.pv.range (productInt s.pv.bl f)
                 br := laneOf s.pv.range (productInt s.pv.br f)
                 range := s.pv.range }
         status := 0x00000000 }) ∧
  (∀ (t : Transaction) (s : State), t.cmd &&& 0xFFFFFFFF = 0x03000000 →
    perform t s = exec (.pvscale t.opa) s)

/-- R114: PVVALUES copies the lanes to the result words. Second clause: the words that
encode the command, and the bits its fields are read from. -/
def Obligations.PvvaluesResult : Prop :=
  (∀ s : State,
     exec .pvvalues s =
       .next { s with
         res0 := s.pv.fl, res1 := s.pv.fr, res2 := s.pv.bl, res3 := s.pv.br, status := 0x00000000 }) ∧
  (∀ (t : Transaction) (s : State), t.cmd &&& 0xFFFFFFFF = 0x04000000 →
    perform t s = exec .pvvalues s)

/-- R117: clamping before rounding and clamping after it give the same integer. -/
def Obligations.ClampAndRoundingCommute : Prop :=
  ∀ (x : ℚ) (r : PvRange),
    rnd (clamp x (rangeLo r) (rangeHi r) * 65536) =
      clampInt (rnd (x * 65536)) (laneLo r) 65536

/-- R116: lane values in the range are stored exactly by PVSET and PVNEW, and a PVSET repeated with the
same operands changes nothing more. -/
def Obligations.ClampingIsIdempotent : Prop :=
  ∀ (fl fr bl br : Word) (s : State),
    (PvInRange ⟨fl, fr, bl, br, s.pv.range⟩ →
      exec (.pvset fl fr bl br) s =
        .next { s with pv := ⟨fl, fr, bl, br, s.pv.range⟩, status := 0x00000000 }) ∧
    (∀ r : PvRange, PvInRange ⟨fl, fr, bl, br, r⟩ →
      exec (.pvnew r fl fr bl br) s =
        .next { s with pv := ⟨fl, fr, bl, br, r⟩, status := 0x00000000 }) ∧
    (∀ s' : State, exec (.pvset fl fr bl br) s = .next s' →
      exec (.pvset fl fr bl br) s' = .next s')

/-- R113, corner cases: with the lanes in range, factor 1 leaves the Power Vector; factor 0 gives the zero
vector; a negative factor zeroes every lane of an unsigned vector in range. -/
def Obligations.ScaleByOneZeroAndNegative : Prop :=
  ∀ s : State,
    (PvInRange s.pv → exec (.pvscale 0x00010000) s = .next { s with status := 0x00000000 }) ∧
    exec (.pvscale 0x00000000) s =
      .next { s with pv := ⟨0, 0, 0, 0, s.pv.range⟩, status := 0x00000000 } ∧
    (∀ f : Word, f.toInt < 0 → PvInRange s.pv → s.pv.range = .unsigned →
      exec (.pvscale f) s = .next { s with pv := ⟨0, 0, 0, 0, .unsigned⟩, status := 0x00000000 })

/-! ## The kinematics family -/

/-- R130, R131, R132: MOVE.2W for each of the sixteen move codes, from the written table. Second clause:
the words that encode the command, and the bits its fields are read from. -/
def Obligations.Move2wResult : Prop :=
  (∀ (code : BitVec 4) (s : State),
     exec (.move2w (MoveArg.ofBits code)) s =
       .next { s with pv := (table2w code).1, status := (table2w code).2 }) ∧
  (∀ (t : Transaction) (s : State), t.cmd &&& 0xFFFFFFF0 = 0x10000000 →
    perform t s = exec (.move2w (MoveArg.ofBits (bits t.cmd 0 4))) s)

/-- R130, R131, R133: MOVE.4D for each of the sixteen move codes, from the written table. Second clause:
the words that encode the command, and the bits its fields are read from. -/
def Obligations.Move4dResult : Prop :=
  (∀ (code : BitVec 4) (s : State),
     exec (.move4d (MoveArg.ofBits code)) s =
       .next { s with pv := (table4d code).1, status := (table4d code).2 }) ∧
  (∀ (t : Transaction) (s : State), t.cmd &&& 0xFFFFFFF0 = 0x10000010 →
    perform t s = exec (.move4d (MoveArg.ofBits (bits t.cmd 0 4))) s)

/-- R130, R134, R135: MOVE.4M for each of the sixteen move codes and both settings of `SOUTH_HIST`, from
the written table. Second clause: the words that
encode the command, and the bits its fields are read from. -/
def Obligations.Move4mResult : Prop :=
  (∀ (code : BitVec 4) (s : State),
     exec (.move4m (MoveArg.ofBits code)) s =
       .next { s with pv := (table4m s.southHist code).1, status := (table4m s.southHist code).2 }) ∧
  (∀ (t : Transaction) (s : State), t.cmd &&& 0xFFFFFFF0 = 0x10000020 →
    perform t s = exec (.move4m (MoveArg.ofBits (bits t.cmd 0 4))) s)

/-- R136: MECANUM as integer arithmetic on the clamped numerators: each lane is the quotient of a signed
sum by the L1 norm, rounded to nearest with ties up, and 0 where the norm is 0. Second clause: the words
that encode the command, and the bits its fields are read from. -/
def Obligations.MecanumResult : Prop :=
  (∀ (p : InputScale) (lat lon rot : Word) (s : State),
     exec (.mecanum p lat lon rot) s =
       .next { s with
         pv := mecanumInt (motionInt p lat) (motionInt p lon) (motionInt p rot)
         status := 0x00000000 }) ∧
  (∀ (t : Transaction) (s : State), t.cmd &&& 0xFFFFFFFE = 0x11000000 →
    perform t s = exec (.mecanum (if t.cmd.getLsbD 0 then .percent else .unit) t.opa t.opb t.opc) s)

/-- R137: every lane MECANUM writes lies in [-1, 1]. -/
def Obligations.MecanumLanesAreBounded : Prop :=
  ∀ (p : InputScale) (lat lon rot : Word) (s s' : State),
    exec (.mecanum p lat lon rot) s = .next s' →
      ∀ l : Lane, -65536 ≤ (s'.pv.lane l).toInt ∧ (s'.pv.lane l).toInt ≤ 65536

/-- R138: unless all three inputs are 0, some lane MECANUM writes is exactly 1 or -1; with all three 0 the
vector is zero. -/
def Obligations.MecanumHasFullMagnitude : Prop :=
  ∀ (p : InputScale) (lat lon rot : Word) (s s' : State),
    exec (.mecanum p lat lon rot) s = .next s' →
      ((lat ≠ 0 ∨ lon ≠ 0 ∨ rot ≠ 0) →
        ∃ l : Lane, s'.pv.lane l = 0x00010000 ∨ s'.pv.lane l = 0xFFFF0000) ∧
      (lat = 0 ∧ lon = 0 ∧ rot = 0 → s'.pv = ⟨0, 0, 0, 0, .signed⟩)

/-- R136, decision D14: an input of a percent MECANUM that is 100 times another word stands for the same
motion. -/
def Obligations.PercentScaleIsAHundredth : Prop :=
  ∀ (lat lon rot plat plon prot : Word) (s : State),
    plat.toInt = 100 * lat.toInt → plon.toInt = 100 * lon.toInt → prot.toInt = 100 * rot.toInt →
      exec (.mecanum .percent plat plon prot) s = exec (.mecanum .unit lat lon rot) s

/-- R139: the discrete table and the continuous mixing are different maps: MECANUM 0, 1, 0 gives
(1,-1,-1,1), which no move of MOVE.4M gives, MOVE.4M N gives (1,1,1,1), and so does MECANUM 1, 0, 0. -/
def Obligations.DiscreteAndContinuousDiffer : Prop :=
  ∀ s : State,
    exec (.mecanum .unit 0 0x00010000 0) s =
      .next { s with pv := unitPv 1 (-1) (-1) 1, status := 0x00000000 } ∧
    (∀ (m : MoveArg) (s' : State), exec (.move4m m) s = .next s' → s'.pv ≠ unitPv 1 (-1) (-1) 1) ∧
    exec (.move4m (.named .north)) s =
      .next { s with pv := unitPv 1 1 1 1, status := 0x00000000 } ∧
    exec (.mecanum .unit 0x00010000 0 0) s =
      .next { s with pv := unitPv 1 1 1 1, status := 0x00000000 }

/-! ## The actuation encoder family -/

/-- R150 to R153: ENCDC puts the rounded magnitude of the clamped source word on the forward count when the
word is positive and on the reverse count when it is negative, 0 on the other, and under `EMIT` appends
both, forward first. Second clause: the words that
encode the command, and the bits its fields are read from. -/
def Obligations.EncdcResult : Prop :=
  (∀ (src : Source) (emit : Bool) (cha chb : Channel) (s : State),
     let v := sourceWord src s
     let a : PulseCount := if 0 < v.toInt then dcInt v else 0
     let b : PulseCount := if v.toInt < 0 then dcInt v else 0
     exec (.encdc src emit cha chb) s =
       .next { s with
         pulseA := a
         pulseB := b
         out := s.out ++ (if emit then [⟨cha, 0, a⟩, ⟨chb, 0, b⟩] else [])
         status := 0x00000000 }) ∧
  (∀ (t : Transaction) (s : State), t.cmd &&& 0xFFFFF000 = 0x20000000 →
    perform t s = exec (.encdc (sourceField t) (t.cmd.getLsbD 11) (bits t.cmd 0 4) (bits t.cmd 4 4)) s)

/-- R150, R151, R154, R155: ENCANG's tick count in integers, on `PULSE_A` and under `EMIT` on its
channel. Second clause: the words that
encode the command, and the bits its fields are read from. -/
def Obligations.EncangResult : Prop :=
  (∀ (src : Source) (kind : ServoKind) (emit : Bool) (cha : Channel) (s : State),
     let n := angInt (sourceWord src s) kind
     exec (.encang src kind emit cha) s =
       .next { s with
         pulseA := n
         pulseB := 0
         out := s.out ++ (if emit then [⟨cha, 0, n⟩] else [])
         status := 0x00000000 }) ∧
  (∀ (t : Transaction) (s : State), t.cmd &&& 0xFFFFE0F0 = 0x21000000 →
    perform t s =
      exec (.encang (sourceField t) (if t.cmd.getLsbD 12 then .deg270 else .deg180) (t.cmd.getLsbD 11)
        (bits t.cmd 0 4)) s)

/-- R154: the angular count rises with the angle, is 0 at and below -60 degrees, and does not change beyond
the servo's limit. -/
def Obligations.AngularCountIsMonotone : Prop :=
  ∀ (kind : ServoKind) (l : Lane) (v w : Word) (emit : Bool) (cha : Channel) (s s1 s2 : State),
    exec (.encang (.operand l v) kind emit cha) s = .next s1 →
    exec (.encang (.operand l w) kind emit cha) s = .next s2 →
      (v.toInt ≤ w.toInt → s1.pulseA.toNat ≤ s2.pulseA.toNat) ∧
      (v.toInt ≤ -60 * 65536 → s1.pulseA = 0) ∧
      (kind = .deg180 → 90 * 65536 ≤ v.toInt → s1.pulseA = 307) ∧
      (kind = .deg270 → 135 * 65536 ≤ v.toInt → s1.pulseA = 399)

/-- R150, R151, R156, R157: ENCCRS's interpolated count in integers, on `PULSE_A` and under `EMIT` on its
channel. Second clause: the words that
encode the command, and the bits its fields are read from. -/
def Obligations.EnccrsResult : Prop :=
  (∀ (src : Source) (emit : Bool) (cha : Channel) (slot : Slot) (s : State),
     let n := crsInt (sourceWord src s) (s.calSlot slot)
     exec (.enccrs src emit cha slot) s =
       .next { s with
         pulseA := n
         pulseB := 0
         out := s.out ++ (if emit then [⟨cha, 0, n⟩] else [])
         status := 0x00000000 }) ∧
  (∀ (t : Transaction) (s : State), t.cmd &&& 0xFFF0F0F0 = 0x22000000 →
    perform t s =
      exec (.enccrs (sourceField t) (t.cmd.getLsbD 11) (bits t.cmd 0 4) (bits t.cmd 16 4).toFin) s)

/-- R156: for every calibration, speed 0 gives `STOP` exactly, speeds of 1 and above give `MAXF`, speeds of
-1 and below give `MAXB`, and every other speed gives a count between its side's two points. -/
def Obligations.ContinuousServoEndpoints : Prop :=
  ∀ (src : Source) (emit : Bool) (cha : Channel) (slot : Slot) (s s' : State),
    exec (.enccrs src emit cha slot) s = .next s' →
      ((sourceWord src s).toInt = 0 → s'.pulseA = (s.calSlot slot).stop) ∧
      (65536 ≤ (sourceWord src s).toInt → s'.pulseA = (s.calSlot slot).maxf) ∧
      ((sourceWord src s).toInt ≤ -65536 → s'.pulseA = (s.calSlot slot).maxb) ∧
      (0 < (sourceWord src s).toInt →
        min (s.calSlot slot).minf.toNat (s.calSlot slot).maxf.toNat ≤ s'.pulseA.toNat ∧
        s'.pulseA.toNat ≤ max (s.calSlot slot).minf.toNat (s.calSlot slot).maxf.toNat) ∧
      ((sourceWord src s).toInt < 0 →
        min (s.calSlot slot).minb.toNat (s.calSlot slot).maxb.toNat ≤ s'.pulseA.toNat ∧
        s'.pulseA.toNat ≤ max (s.calSlot slot).minb.toNat (s.calSlot slot).maxb.toNat)

/-- R159: the counts of ENCDC and ENCCRS lie in 0 .. 4095 before saturation; an angular count never exceeds
4095 before it, and some angular count is negative before it. -/
def Obligations.CountsBeforeSaturation : Prop :=
  (∀ v : ℚ, 0 ≤ (dc v).1 ∧ (dc v).1 ≤ 4095 ∧ 0 ≤ (dc v).2 ∧ (dc v).2 ≤ 4095) ∧
  (∀ (v : ℚ) (c : Calibration),
    0 ≤ rnd (crsValue (clamp v (-1) 1) c) ∧ rnd (crsValue (clamp v (-1) 1) c) ≤ 4095) ∧
  (∀ (v : ℚ) (kind : ServoKind),
    rnd (angTicks (clamp v (-angularLimit kind) (angularLimit kind))) ≤ 4095) ∧
  (∃ (v : ℚ) (kind : ServoKind),
    rnd (angTicks (clamp v (-angularLimit kind) (angularLimit kind))) < 0)

/-- R151, R236: with `CHA = CHB` both writes go to the one channel, and the reverse count is the one a
driver that obeys `OUT` in order has in effect; with two channels each has its own count. The view of
such a driver is the model's (log 15). -/
def Obligations.LaterWriteIsInEffect : Prop :=
  ∀ (src : Source) (cha chb : Channel) (s s' : State),
    exec (.encdc src true cha chb) s = .next s' →
      inEffect s'.out chb = some ⟨chb, 0, s'.pulseB⟩ ∧
      (cha ≠ chb → inEffect s'.out cha = some ⟨cha, 0, s'.pulseA⟩)

/-- R39, R63: a host read of a pulse register on a 32-bit bus is the count zero-extended. -/
def Obligations.HostReadsPulsesZeroExtended : Prop :=
  ∀ s : State,
    (hostRead s .pulseA).toNat = s.pulseA.toNat ∧ (hostRead s .pulseB).toNat = s.pulseB.toNat ∧
    (hostRead s .pulseA).toNat ≤ 4095 ∧ (hostRead s .pulseB).toNat ≤ 4095

/-! ## The configuration family -/

/-- R180, R95: CALWR as a transaction: the five points of the slot are cut from the packed operand words,
every other operand bit is ignored, and nothing else changes but `STATUS`. -/
def Obligations.CalwrResult : Prop :=
  (∀ (slot : Slot) (opa opb opc opd : Word) (s : State),
    perform ⟨BitVec.ofNat 32 (0x30000000 + slot.val * 65536), opa, opb, opc, opd⟩ s =
      .next { s with
        cal := s.cal.set slot
          { maxb := BitVec.ofNat 12 opa.toNat
            minb := BitVec.ofNat 12 (opa.toNat / 65536)
            stop := BitVec.ofNat 12 opb.toNat
            minf := BitVec.ofNat 12 (opb.toNat / 65536)
            maxf := BitVec.ofNat 12 opc.toNat }
        status := 0x00000000 }) ∧
  (∀ (slot : Slot) (c : Calibration) (s : State),
    exec (.calwr slot c) s = .next { s with cal := s.cal.set slot c, status := 0x00000000 })

/-- R181, R95: CALRD writes a slot to the result words, two points a word, unused bits 0. Second clause:
the words that encode the command, and the bits its fields are read from. -/
def Obligations.CalrdResult : Prop :=
  (∀ (slot : Slot) (s : State),
     exec (.calrd slot) s =
       .next { s with
         res0 := BitVec.ofNat 32 ((s.calSlot slot).minb.toNat * 65536 + (s.calSlot slot).maxb.toNat)
         res1 := BitVec.ofNat 32 ((s.calSlot slot).minf.toNat * 65536 + (s.calSlot slot).stop.toNat)
         res2 := BitVec.ofNat 32 (s.calSlot slot).maxf.toNat
         res3 := 0x00000000
         status := 0x00000000 }) ∧
  (∀ (t : Transaction) (s : State), t.cmd &&& 0xFFF0FFFF = 0x31000000 →
    perform t s = exec (.calrd (bits t.cmd 16 4).toFin) s)

/-- R181, R95: a CALRD result fed back as the operand words of a CALWR to the same slot leaves every
calibration slot as it was. -/
def Obligations.CalrdResultRewritesTheSlot : Prop :=
  ∀ (slot : Slot) (s : State),
    ∃ s1 s2 : State,
      perform ⟨BitVec.ofNat 32 (0x31000000 + slot.val * 65536), 0, 0, 0, 0⟩ s = .next s1 ∧
      perform ⟨BitVec.ofNat 32 (0x30000000 + slot.val * 65536), s1.res0, s1.res1, s1.res2, s1.res3⟩ s1 =
        .next s2 ∧
      s2.cal = s.cal

/-! ## Assembler text -/

/-- R101: each pseudo-instruction assembles to its expansion, for all operand texts. -/
def Obligations.PseudoInstructionsExpand : Prop :=
  (∀ fl fr : Text,
    assembleInstr .pvset2 [fl, fr] = assembleInstr .pvset [fl, fr, ['0'], ['0']]) ∧
  assembleInstr .pvclear [] = assembleInstr .pvset [['0'], ['0'], ['0'], ['0']] ∧
  assembleInstr .stop2w [] = assembleInstr .move2w ["STOP".toList] ∧
  assembleInstr .stop4d [] = assembleInstr .move4d ["STOP".toList] ∧
  assembleInstr .stop4m [] = assembleInstr .move4m ["STOP".toList] ∧
  (∀ slot : Text,
    assembleInstr .caldef [slot] =
      assembleInstr .calwr
        [slot, "85".toList, "285".toList, "310".toList, "335".toList, "535".toList]) ∧
  (∀ (lane : Lane) (cha chb : Text),
    assembleInstr .encpvDc [(laneName lane).toList, cha, chb] =
      assembleInstr (.encdc true) [(laneName lane).toList, cha, chb])
end

