-- ==== Sys2Proof/Laws/Decode.lean ====
section
/-! SUPPORT. The field values' round trips, the opcode table's rows, and the serialisation of words. -/

namespace Sys2Proof

@[simp] theorem lane_ofBits_toBits (l : Lane) : Lane.ofBits l.toBits = l := by cases l <;> rfl

@[simp] theorem lane_toBits_ofBits (b : BitVec 2) : (Lane.ofBits b).toBits = b := by
  revert b; decide

@[simp] theorem pvRange_ofBit_toBit (r : PvRange) : PvRange.ofBit r.toBit = r := by cases r <;> rfl

@[simp] theorem pvRange_toBit_ofBit (b : BitVec 1) : (PvRange.ofBit b).toBit = b := by
  revert b; decide

@[simp] theorem inputScale_ofBit_toBit (p : InputScale) : InputScale.ofBit p.toBit = p := by
  cases p <;> rfl

@[simp] theorem inputScale_toBit_ofBit (b : BitVec 1) : (InputScale.ofBit b).toBit = b := by
  revert b; decide

@[simp] theorem servoKind_ofBit_toBit (k : ServoKind) : ServoKind.ofBit k.toBit = k := by
  cases k <;> rfl

@[simp] theorem servoKind_toBit_ofBit (b : BitVec 1) : (ServoKind.ofBit b).toBit = b := by
  revert b; decide

/-- A well-formed move operand is read back from its code (R91). -/
theorem moveArg_ofBits_toBits {m : MoveArg} (h : m.wellFormed) : MoveArg.ofBits m.toBits = m := by
  cases m with
  | named m => cases m <;> rfl
  | unknown code =>
    revert h; revert code; decide

@[simp] theorem moveArg_toBits_ofBits (b : BitVec 4) : (MoveArg.ofBits b).toBits = b := by
  revert b; decide

/-- Every code names a well-formed operand (R91). -/
theorem moveArg_ofBits_wellFormed (b : BitVec 4) : (MoveArg.ofBits b).wellFormed := by
  revert b; decide

/-- A field cut out of a word put together with OR. -/
theorem bits_or (v w : Word) (lo n : Nat) : bits (v ||| w) lo n = bits v lo n ||| bits w lo n := by
  apply BitVec.eq_of_getLsbD_eq
  intro i hi
  simp [bits, hi]

/-- A mask that keeps a value's bits and none of some field bits undoes adding those field bits. -/
theorem or_and_of_disjoint {v f m : Word} (hv : v &&& m = v) (hf : f &&& m = 0) :
    (v ||| f) &&& m = v := by
  rw [BitVec.and_comm, BitVec.and_or_distrib_left, BitVec.and_comm m v, BitVec.and_comm m f, hv, hf]
  simp

/-- Field bits outside a mask, put together. -/
theorem or_and_zero {f g m : Word} (hf : f &&& m = 0) (hg : g &&& m = 0) : (f ||| g) &&& m = 0 := by
  rw [BitVec.and_comm, BitVec.and_or_distrib_left, BitVec.and_comm m f, BitVec.and_comm m g, hf, hg]
  simp

/-- Two different rows have a fixed bit that distinguishes them. -/
theorem rows_distinguished :
    Row.all.Pairwise (fun r q => (r.value ^^^ q.value) &&& (r.mask &&& q.mask) ≠ 0) := by decide

/-- Every row stands in the table. -/
theorem row_mem_all (r : Row) : r ∈ Row.all := by cases r <;> decide

/-- What a decoded transaction is: the instruction of a row the command word matches. -/
theorem decode_cases (t : Transaction) :
    (∃ r, decodeRow t.cmd = some r ∧ r.matches t.cmd = true ∧ decode t = .ok (r.instr t)) ∨
      (decodeRow t.cmd = none ∧ decode t = .error (rejectOf t.cmd)) := by
  unfold decode
  cases h : decodeRow t.cmd with
  | none => exact .inr ⟨rfl, rfl⟩
  | some r => exact .inl ⟨r, rfl, by simpa using List.find?_some h, rfl⟩

/-- The bytes of a word give the word back (R62). -/
theorem takeWord_wordBytes (w : Word) (rest : List Byte) :
    takeWord (wordBytes w ++ rest) = .ok (w, rest) := by
  have h : wordOfBytes (bits w 0 8) (bits w 8 8) (bits w 16 8) (bits w 24 8) = w := by
    apply BitVec.eq_of_getLsbD_eq
    intro i hi
    change BitVec.getLsbD (bits w 24 8 ++ (bits w 16 8 ++ (bits w 8 8 ++ bits w 0 8))) i = _
    simp only [BitVec.getLsbD_append, bits, BitVec.getLsbD_extractLsb']
    split_ifs with h1 h2 h3
    · simp [h3]
    · simp [show i - 8 < 8 by omega, show 8 + (i - 8) = i by omega]
    · simp [show i - (8 + 8) < 8 by omega, show 16 + (i - (8 + 8)) = i by omega]
    · simp [show i - (8 + (8 + 8)) < 8 by omega, show 24 + (i - (8 + (8 + 8))) = i by omega]
  simp [wordBytes, takeWord, h]

/-- The bytes of a transaction give it back, with the bytes that follow (R62, R80). -/
theorem ofBytes_toBytes (t : Transaction) (rest : List Byte) :
    Transaction.ofBytes (t.toBytes ++ rest) = .ok (t, rest) := by
  simp only [Transaction.toBytes, List.append_assoc, Transaction.ofBytes, takeWord_wordBytes]

/-- Two packed points are cut out of their word again (R95). -/
theorem bits_packPoints (a b : PulseCount) :
    bits (packPoints a b) 0 12 = a ∧ bits (packPoints a b) 16 12 = b := by
  constructor <;> apply BitVec.eq_of_getLsbD_eq <;> intro i hi
  · simp [bits, packPoints, hi, show i < 16 by omega, show i < 32 by omega]
  · have h : a.getLsbD (16 + i) = false := BitVec.getLsbD_of_ge _ _ (by omega)
    simp [bits, packPoints, hi, show 16 + i < 32 by omega, h]

/-- A calibration slot is unpacked from its packed words (R95). -/
theorem unpack_packPoints (c : Calibration) :
    Calibration.unpack (packPoints c.maxb c.minb) (packPoints c.stop c.minf) (packPoints c.maxf 0) = c := by
  simp [Calibration.unpack, bits_packPoints]

/-- A field put back at its place is the word's part under the field's mask. -/
theorem place_bits (cmd : Word) (lo n : Nat) :
    place (bits cmd lo n) lo = cmd &&& (((BitVec.allOnes n).setWidth 32) <<< lo) := by
  apply BitVec.eq_of_getLsbD_eq
  intro i hi
  simp only [place, bits, BitVec.getLsbD_and, BitVec.getLsbD_shiftLeft, BitVec.getLsbD_setWidth,
    BitVec.getLsbD_extractLsb', BitVec.getLsbD_allOnes]
  rcases Nat.lt_or_ge i lo with h | h
  · simp [h]
  · simp only [hi, decide_true, Bool.true_and, show ¬ i < lo by omega, decide_false, Bool.not_false,
      show i - lo < 32 by omega, show lo + (i - lo) = i by omega]
    cases cmd.getLsbD i <;> simp

/-- A decoded source keeps its select bit (R93). -/
theorem sBit_ofTransaction (t : Transaction) : (Source.ofTransaction t).sBit = bits t.cmd 10 1 := by
  have h : ∀ b : BitVec 1, b ≠ 1 → 0 = b := by decide
  unfold Source.ofTransaction
  simp only
  split
  · next hs => rw [hs]; rfl
  · next hs => exact h _ hs

/-- A decoded source keeps its lane field, also where the command ignores it (R93). -/
theorem laneBits_ofTransaction (t : Transaction) :
    (Source.ofTransaction t).laneBits = bits t.cmd 8 2 := by
  unfold Source.ofTransaction
  simp only
  split <;> simp [Source.laneBits]

end Sys2Proof
end

