-- ==== Sys2Proof/Laws/Numeric.lean ====
section
/-! SUPPORT. What the exact arithmetic of spec/00_scope.md R10 to R14 can do, one lemma per operation. -/

namespace Sys2Proof.Machine

open Sys2Proof

@[simp] theorem config_one_cast : (Config.ONE : ℚ) = 65536 := by norm_num [Config.ONE, Config.FRAC]

/-! ### clamp -/

/-- A clamped value lies in the range. -/
theorem clamp_mem {lo hi : ℚ} (h : lo ≤ hi) (x : ℚ) : lo ≤ clamp x lo hi ∧ clamp x lo hi ≤ hi :=
  ⟨le_min h (le_max_left _ _), min_le_left _ _⟩

/-- A value in the range is unchanged. -/
theorem clamp_of_mem {x lo hi : ℚ} (h1 : lo ≤ x) (h2 : x ≤ hi) : clamp x lo hi = x := by
  simp [clamp, h1, h2]

/-- A value at or below the range becomes its lower bound. -/
theorem clamp_of_le {x lo hi : ℚ} (h : lo ≤ hi) (hx : x ≤ lo) : clamp x lo hi = lo := by
  simp [clamp, h, hx]

/-- A value at or above the range becomes its upper bound. -/
theorem clamp_of_ge {x lo hi : ℚ} (h : lo ≤ hi) (hx : hi ≤ x) : clamp x lo hi = hi := by
  simp [clamp, hx, le_trans h hx]

/-- A clamped quotient by a positive number is the quotient of the clamped numerator. -/
theorem clamp_div {x lo hi b : ℚ} (hb : 0 < b) :
    clamp (x / b) lo hi = clamp x (lo * b) (hi * b) / b := by
  have h1 : lo = lo * b / b := by field_simp
  have h2 : hi = hi * b / b := by field_simp
  unfold clamp
  rw [h1, h2, max_div_div_right hb.le, min_div_div_right hb.le, ← h1, ← h2]

/-- The bounds of a range are in order. -/
theorem rangeLo_le_rangeHi (r : PvRange) : rangeLo r ≤ rangeHi r := by
  cases r <;> norm_num [rangeLo, rangeHi]

/-! ### rnd -/

/-- Rounding a quotient of integers is one floor division. -/
theorem rnd_div (a b : ℤ) (hb : 0 < b) : rnd ((a : ℚ) / (b : ℚ)) = (2 * a + b) / (2 * b) := by
  obtain ⟨n, rfl⟩ := Int.eq_ofNat_of_zero_le hb.le
  have hn : (n : ℚ) ≠ 0 := by
    have : n ≠ 0 := by omega
    exact_mod_cast this
  have h : (a : ℚ) / ((n : ℤ) : ℚ) + 1 / 2 = ((2 * a + n : ℤ) : ℚ) / ((2 * n : ℕ) : ℚ) := by
    push_cast; field_simp
  rw [rnd, h, Rat.floor_intCast_div_natCast]
  push_cast; rfl

/-- Rounding fixes integers. -/
@[simp] theorem rnd_intCast (n : ℤ) : rnd (n : ℚ) = n := by
  have h := rnd_div n 1 one_pos
  rw [Int.cast_one, div_one] at h
  omega

/-- Rounding is monotone. -/
theorem rnd_mono {x y : ℚ} (h : x ≤ y) : rnd x ≤ rnd y :=
  Int.floor_mono (by linarith)

/-- A rounded value lies between integers that bound the value. -/
theorem rnd_mem {x : ℚ} {a b : ℤ} (ha : (a : ℚ) ≤ x) (hb : x ≤ (b : ℚ)) : a ≤ rnd x ∧ rnd x ≤ b :=
  ⟨by simpa using rnd_mono ha, by simpa using rnd_mono hb⟩

/-! ### fx and tofx -/

/-- The value of a word as a quotient. -/
theorem fx_eq (w : Word) : fx w = (w.toInt : ℚ) / 65536 := by simp [fx]

/-- A value between -1 and 1 is stored without wrapping. -/
theorem tofx_toInt {x : ℚ} (h1 : -1 ≤ x) (h2 : x ≤ 1) :
    (tofx x).toInt = rnd (x * 65536) ∧ -65536 ≤ rnd (x * 65536) ∧ rnd (x * 65536) ≤ 65536 := by
  have h := rnd_mem (x := x * 65536) (a := -65536) (b := 65536)
    (by push_cast; linarith) (by push_cast; linarith)
  refine ⟨?_, h⟩
  simp only [tofx, config_one_cast, BitVec.toInt_ofInt]
  apply Int.bmod_eq_of_le <;> norm_num <;> omega

/-- Storing the value of a word gives the word back. -/
@[simp] theorem tofx_fx (w : Word) : tofx (fx w) = w := by
  have h : fx w * 65536 = (w.toInt : ℚ) := by rw [fx_eq]; ring
  simp [tofx, h]

/-! ### sat12 -/

/-- A count in 0 .. 4095 is unchanged by saturation. -/
theorem sat12_of_mem {n : ℤ} (h1 : 0 ≤ n) (h2 : n ≤ 4095) : sat12 n = BitVec.ofInt 12 n := by
  have h : ((Config.PMAX : ℕ) : ℤ) = 4095 := by norm_num [Config.PMAX, Config.PBITS]
  simp [sat12, h, h1, h2]

/-- The number a saturated count stands for. -/
theorem sat12_toNat (n : ℤ) : ((sat12 n).toNat : ℤ) = min 4095 (max 0 n) := by
  have h : ((Config.PMAX : ℕ) : ℤ) = 4095 := by norm_num [Config.PMAX, Config.PBITS]
  rw [sat12, h, BitVec.toNat_ofInt]
  omega

end Sys2Proof.Machine
end

