-- ==== Sys2Proof/Laws/State.lean ====
section
/-! SUPPORT. What each register write leaves in each field: one lemma per field per update, true by
unfolding, so that no later proof unfolds a record update. -/

namespace Sys2Proof.Machine

open Sys2Proof

/-! ### `PV` written -/

@[simp] theorem State.setPv_pv (s : State) (p : PowerVector) : (s.setPv p).pv = p := rfl
@[simp] theorem State.setPv_res0 (s : State) (p : PowerVector) : (s.setPv p).res0 = s.res0 := rfl
@[simp] theorem State.setPv_res1 (s : State) (p : PowerVector) : (s.setPv p).res1 = s.res1 := rfl
@[simp] theorem State.setPv_res2 (s : State) (p : PowerVector) : (s.setPv p).res2 = s.res2 := rfl
@[simp] theorem State.setPv_res3 (s : State) (p : PowerVector) : (s.setPv p).res3 = s.res3 := rfl
@[simp] theorem State.setPv_pulseA (s : State) (p : PowerVector) : (s.setPv p).pulseA = s.pulseA := rfl
@[simp] theorem State.setPv_pulseB (s : State) (p : PowerVector) : (s.setPv p).pulseB = s.pulseB := rfl
@[simp] theorem State.setPv_status (s : State) (p : PowerVector) : (s.setPv p).status = s.status := rfl
@[simp] theorem State.setPv_cal (s : State) (p : PowerVector) : (s.setPv p).cal = s.cal := rfl
@[simp] theorem State.setPv_out (s : State) (p : PowerVector) : (s.setPv p).out = s.out := rfl
@[simp] theorem State.setPv_southHist (s : State) (p : PowerVector) : (s.setPv p).southHist = s.southHist := rfl
@[simp] theorem State.setPv_port (s : State) (p : PowerVector) : (s.setPv p).port = s.port := rfl

/-! ### the result words written -/

@[simp] theorem State.setRes_pv (s : State) (a b c d : Word) : (s.setRes a b c d).pv = s.pv := rfl
@[simp] theorem State.setRes_res0 (s : State) (a b c d : Word) : (s.setRes a b c d).res0 = a := rfl
@[simp] theorem State.setRes_res1 (s : State) (a b c d : Word) : (s.setRes a b c d).res1 = b := rfl
@[simp] theorem State.setRes_res2 (s : State) (a b c d : Word) : (s.setRes a b c d).res2 = c := rfl
@[simp] theorem State.setRes_res3 (s : State) (a b c d : Word) : (s.setRes a b c d).res3 = d := rfl
@[simp] theorem State.setRes_pulseA (s : State) (a b c d : Word) : (s.setRes a b c d).pulseA = s.pulseA := rfl
@[simp] theorem State.setRes_pulseB (s : State) (a b c d : Word) : (s.setRes a b c d).pulseB = s.pulseB := rfl
@[simp] theorem State.setRes_status (s : State) (a b c d : Word) : (s.setRes a b c d).status = s.status := rfl
@[simp] theorem State.setRes_cal (s : State) (a b c d : Word) : (s.setRes a b c d).cal = s.cal := rfl
@[simp] theorem State.setRes_out (s : State) (a b c d : Word) : (s.setRes a b c d).out = s.out := rfl
@[simp] theorem State.setRes_southHist (s : State) (a b c d : Word) : (s.setRes a b c d).southHist = s.southHist := rfl
@[simp] theorem State.setRes_port (s : State) (a b c d : Word) : (s.setRes a b c d).port = s.port := rfl

/-! ### the pulse registers written -/

@[simp] theorem State.setPulses_pv (s : State) (a b : PulseCount) : (s.setPulses a b).pv = s.pv := rfl
@[simp] theorem State.setPulses_res0 (s : State) (a b : PulseCount) : (s.setPulses a b).res0 = s.res0 := rfl
@[simp] theorem State.setPulses_res1 (s : State) (a b : PulseCount) : (s.setPulses a b).res1 = s.res1 := rfl
@[simp] theorem State.setPulses_res2 (s : State) (a b : PulseCount) : (s.setPulses a b).res2 = s.res2 := rfl
@[simp] theorem State.setPulses_res3 (s : State) (a b : PulseCount) : (s.setPulses a b).res3 = s.res3 := rfl
@[simp] theorem State.setPulses_pulseA (s : State) (a b : PulseCount) : (s.setPulses a b).pulseA = a := rfl
@[simp] theorem State.setPulses_pulseB (s : State) (a b : PulseCount) : (s.setPulses a b).pulseB = b := rfl
@[simp] theorem State.setPulses_status (s : State) (a b : PulseCount) : (s.setPulses a b).status = s.status := rfl
@[simp] theorem State.setPulses_cal (s : State) (a b : PulseCount) : (s.setPulses a b).cal = s.cal := rfl
@[simp] theorem State.setPulses_out (s : State) (a b : PulseCount) : (s.setPulses a b).out = s.out := rfl
@[simp] theorem State.setPulses_southHist (s : State) (a b : PulseCount) : (s.setPulses a b).southHist = s.southHist := rfl
@[simp] theorem State.setPulses_port (s : State) (a b : PulseCount) : (s.setPulses a b).port = s.port := rfl

/-! ### `STATUS` written -/

@[simp] theorem State.setStatus_pv (s : State) (w : Word) : (s.setStatus w).pv = s.pv := rfl
@[simp] theorem State.setStatus_res0 (s : State) (w : Word) : (s.setStatus w).res0 = s.res0 := rfl
@[simp] theorem State.setStatus_res1 (s : State) (w : Word) : (s.setStatus w).res1 = s.res1 := rfl
@[simp] theorem State.setStatus_res2 (s : State) (w : Word) : (s.setStatus w).res2 = s.res2 := rfl
@[simp] theorem State.setStatus_res3 (s : State) (w : Word) : (s.setStatus w).res3 = s.res3 := rfl
@[simp] theorem State.setStatus_pulseA (s : State) (w : Word) : (s.setStatus w).pulseA = s.pulseA := rfl
@[simp] theorem State.setStatus_pulseB (s : State) (w : Word) : (s.setStatus w).pulseB = s.pulseB := rfl
@[simp] theorem State.setStatus_status (s : State) (w : Word) : (s.setStatus w).status = w := rfl
@[simp] theorem State.setStatus_cal (s : State) (w : Word) : (s.setStatus w).cal = s.cal := rfl
@[simp] theorem State.setStatus_out (s : State) (w : Word) : (s.setStatus w).out = s.out := rfl
@[simp] theorem State.setStatus_southHist (s : State) (w : Word) : (s.setStatus w).southHist = s.southHist := rfl
@[simp] theorem State.setStatus_port (s : State) (w : Word) : (s.setStatus w).port = s.port := rfl

/-! ### a calibration slot written -/

@[simp] theorem State.setCalSlot_pv (s : State) (k : Slot) (c : Calibration) : (s.setCalSlot k c).pv = s.pv := rfl
@[simp] theorem State.setCalSlot_res0 (s : State) (k : Slot) (c : Calibration) : (s.setCalSlot k c).res0 = s.res0 := rfl
@[simp] theorem State.setCalSlot_res1 (s : State) (k : Slot) (c : Calibration) : (s.setCalSlot k c).res1 = s.res1 := rfl
@[simp] theorem State.setCalSlot_res2 (s : State) (k : Slot) (c : Calibration) : (s.setCalSlot k c).res2 = s.res2 := rfl
@[simp] theorem State.setCalSlot_res3 (s : State) (k : Slot) (c : Calibration) : (s.setCalSlot k c).res3 = s.res3 := rfl
@[simp] theorem State.setCalSlot_pulseA (s : State) (k : Slot) (c : Calibration) : (s.setCalSlot k c).pulseA = s.pulseA := rfl
@[simp] theorem State.setCalSlot_pulseB (s : State) (k : Slot) (c : Calibration) : (s.setCalSlot k c).pulseB = s.pulseB := rfl
@[simp] theorem State.setCalSlot_status (s : State) (k : Slot) (c : Calibration) : (s.setCalSlot k c).status = s.status := rfl
@[simp] theorem State.setCalSlot_cal (s : State) (k : Slot) (c : Calibration) : (s.setCalSlot k c).cal = s.cal.set k c := rfl
@[simp] theorem State.setCalSlot_out (s : State) (k : Slot) (c : Calibration) : (s.setCalSlot k c).out = s.out := rfl
@[simp] theorem State.setCalSlot_southHist (s : State) (k : Slot) (c : Calibration) : (s.setCalSlot k c).southHist = s.southHist := rfl
@[simp] theorem State.setCalSlot_port (s : State) (k : Slot) (c : Calibration) : (s.setCalSlot k c).port = s.port := rfl

/-! ### a pulse write appended -/

@[simp] theorem State.emit_pv (s : State) (ch : Channel) (n : PulseCount) : (s.emit ch n).pv = s.pv := rfl
@[simp] theorem State.emit_res0 (s : State) (ch : Channel) (n : PulseCount) : (s.emit ch n).res0 = s.res0 := rfl
@[simp] theorem State.emit_res1 (s : State) (ch : Channel) (n : PulseCount) : (s.emit ch n).res1 = s.res1 := rfl
@[simp] theorem State.emit_res2 (s : State) (ch : Channel) (n : PulseCount) : (s.emit ch n).res2 = s.res2 := rfl
@[simp] theorem State.emit_res3 (s : State) (ch : Channel) (n : PulseCount) : (s.emit ch n).res3 = s.res3 := rfl
@[simp] theorem State.emit_pulseA (s : State) (ch : Channel) (n : PulseCount) : (s.emit ch n).pulseA = s.pulseA := rfl
@[simp] theorem State.emit_pulseB (s : State) (ch : Channel) (n : PulseCount) : (s.emit ch n).pulseB = s.pulseB := rfl
@[simp] theorem State.emit_status (s : State) (ch : Channel) (n : PulseCount) : (s.emit ch n).status = s.status := rfl
@[simp] theorem State.emit_cal (s : State) (ch : Channel) (n : PulseCount) : (s.emit ch n).cal = s.cal := rfl
@[simp] theorem State.emit_out (s : State) (ch : Channel) (n : PulseCount) : (s.emit ch n).out = s.out ++ [{ ch := ch, on := 0, off := n }] := rfl
@[simp] theorem State.emit_southHist (s : State) (ch : Channel) (n : PulseCount) : (s.emit ch n).southHist = s.southHist := rfl
@[simp] theorem State.emit_port (s : State) (ch : Channel) (n : PulseCount) : (s.emit ch n).port = s.port := rfl

/-! ### an input taken -/

@[simp] theorem State.takeInput_pv (s : State) : (s.takeInput).pv = s.pv := rfl
@[simp] theorem State.takeInput_res0 (s : State) : (s.takeInput).res0 = s.res0 := rfl
@[simp] theorem State.takeInput_res1 (s : State) : (s.takeInput).res1 = s.res1 := rfl
@[simp] theorem State.takeInput_res2 (s : State) : (s.takeInput).res2 = s.res2 := rfl
@[simp] theorem State.takeInput_res3 (s : State) : (s.takeInput).res3 = s.res3 := rfl
@[simp] theorem State.takeInput_pulseA (s : State) : (s.takeInput).pulseA = s.pulseA := rfl
@[simp] theorem State.takeInput_pulseB (s : State) : (s.takeInput).pulseB = s.pulseB := rfl
@[simp] theorem State.takeInput_status (s : State) : (s.takeInput).status = s.status := rfl
@[simp] theorem State.takeInput_cal (s : State) : (s.takeInput).cal = s.cal := rfl
@[simp] theorem State.takeInput_out (s : State) : (s.takeInput).out = s.out := rfl
@[simp] theorem State.takeInput_southHist (s : State) : (s.takeInput).southHist = s.southHist := rfl
@[simp] theorem State.takeInput_port (s : State) : (s.takeInput).port = s.port.tail := rfl

/-! ### an input presented -/

@[simp] theorem State.present_pv (s : State) (i : HostInput) : (s.present i).pv = s.pv := rfl
@[simp] theorem State.present_res0 (s : State) (i : HostInput) : (s.present i).res0 = s.res0 := rfl
@[simp] theorem State.present_res1 (s : State) (i : HostInput) : (s.present i).res1 = s.res1 := rfl
@[simp] theorem State.present_res2 (s : State) (i : HostInput) : (s.present i).res2 = s.res2 := rfl
@[simp] theorem State.present_res3 (s : State) (i : HostInput) : (s.present i).res3 = s.res3 := rfl
@[simp] theorem State.present_pulseA (s : State) (i : HostInput) : (s.present i).pulseA = s.pulseA := rfl
@[simp] theorem State.present_pulseB (s : State) (i : HostInput) : (s.present i).pulseB = s.pulseB := rfl
@[simp] theorem State.present_status (s : State) (i : HostInput) : (s.present i).status = s.status := rfl
@[simp] theorem State.present_cal (s : State) (i : HostInput) : (s.present i).cal = s.cal := rfl
@[simp] theorem State.present_out (s : State) (i : HostInput) : (s.present i).out = s.out := rfl
@[simp] theorem State.present_southHist (s : State) (i : HostInput) : (s.present i).southHist = s.southHist := rfl
@[simp] theorem State.present_port (s : State) (i : HostInput) : (s.present i).port = i :: s.port := rfl

end Sys2Proof.Machine
end

