-- ==== Sys2Proof/Laws/Ops.lean ====
section
/-! SUPPORT. One lemma per shared operation: everything it can do, for later proofs to cite instead of
unfolding it. -/

namespace Sys2Proof.Machine

open Sys2Proof

/-! ### Lanes -/

/-- The values of a stored and clamped vector lie in the range (spec/10_state.md R36): the signed value of
each lane word is between the range's bounds. -/
theorem clampTo_store_lane (v : LaneValues) (r : PvRange) (l : Lane) :
    ((v.clampTo r).store r).lane l =
      tofx (clamp (match l with | .fl => v.fl | .fr => v.fr | .bl => v.bl | .br => v.br)
        (rangeLo r) (rangeHi r)) := by
  cases l <;> rfl

/-- A clamped value is stored in its range. -/
theorem tofx_clamp_mem (x : ℚ) (r : PvRange) :
    rangeLo r * 65536 ≤ ((tofx (clamp x (rangeLo r) (rangeHi r))).toInt : ℚ) ∧
      ((tofx (clamp x (rangeLo r) (rangeHi r))).toInt : ℚ) ≤ 65536 := by
  have hm := clamp_mem (rangeLo_le_rangeHi r) x
  cases r
  · have h := tofx_toInt (x := clamp x (rangeLo .signed) (rangeHi .signed)) hm.1 hm.2
    rw [h.1]
    exact ⟨by simpa [rangeLo] using (by exact_mod_cast h.2.1 :
      (-65536 : ℚ) ≤ (rnd (clamp x (rangeLo .signed) (rangeHi .signed) * 65536) : ℚ)),
      by exact_mod_cast h.2.2⟩
  · have h0 : (0 : ℚ) ≤ clamp x (rangeLo .unsigned) (rangeHi .unsigned) := hm.1
    have h := tofx_toInt (x := clamp x (rangeLo .unsigned) (rangeHi .unsigned))
      (by linarith) hm.2
    rw [h.1]
    have h2 : (0 : ℤ) ≤ rnd (clamp x (rangeLo .unsigned) (rangeHi .unsigned) * 65536) :=
      (rnd_mem (a := 0) (b := 65536) (by push_cast; positivity)
        (by push_cast; linarith [show clamp x (rangeLo .unsigned) (rangeHi .unsigned) ≤ 1 from hm.2])).1
    exact ⟨by simpa [rangeLo] using h2, by exact_mod_cast h.2.2⟩

/-! ### Calibration slots -/

/-- A slot read after it was written holds what was written. -/
@[simp] theorem calSlot_setCalSlot_same (s : State) (k : Slot) (c : Calibration) :
    (s.setCalSlot k c).calSlot k = c := by
  simp [State.calSlot, State.setCalSlot]

/-- Writing one slot leaves every other slot alone. -/
theorem calSlot_setCalSlot_other (s : State) {k j : Slot} (c : Calibration) (h : k ≠ j) :
    (s.setCalSlot k c).calSlot j = s.calSlot j := by
  have h' : (k : Nat) ≠ (j : Nat) := fun e => h (Fin.ext e)
  simp only [State.calSlot, State.setCalSlot, Fin.getElem_fin]
  exact Vector.getElem_set_ne _ _ h'

/-! ### Emission -/

/-- Everything emission under the `EMIT` bit can do: `OUT` grows by at most one write, nothing else
changes. -/
theorem emitIf_eq (s : State) (emit : Bool) (ch : Channel) (n : PulseCount) :
    s.emitIf emit ch n =
      { s with out := s.out ++ (if emit then [{ ch := ch, on := 0, off := n }] else []) } := by
  cases emit <;> simp [State.emitIf, State.emit]

/-- Everything a one-channel encoder's result does. -/
theorem storeCount_eq (s : State) (emit : Bool) (cha : Channel) (n : PulseCount) :
    s.storeCount emit cha n =
      { s with
        pulseA := n
        pulseB := 0
        out := s.out ++ (if emit then [{ ch := cha, on := 0, off := n }] else [])
        status := 0 } := by
  rw [State.storeCount, emitIf_eq]; rfl

/-- Everything ENCDC's register writes and emission do: forward before reverse. -/
theorem storePair_eq (s : State) (emit : Bool) (cha chb : Channel) (a b : PulseCount) :
    (((s.setPulses a b).emitIf emit cha a).emitIf emit chb b).setStatus statusOk =
      { s with
        pulseA := a
        pulseB := b
        out := s.out ++
          (if emit then [{ ch := cha, on := 0, off := a }, { ch := chb, on := 0, off := b }] else [])
        status := 0 } := by
  rw [emitIf_eq, emitIf_eq]
  cases emit <;> simp [State.setPulses, State.setStatus, statusOk, statusWord]

/-! ### Moves -/

/-- Everything a discrete move does. -/
theorem storeMove_eq (s : State) (v : LaneValues) (supported : Bool) :
    s.storeMove v supported =
      { s with pv := v.store .signed, status := if supported then 0 else 1 } := by
  cases supported <;> rfl

/-! ### The illegal word and reset -/

/-- Everything an illegal command word does (R97). -/
theorem illegalCommand_eq (s : State) : s.illegalCommand = { s with status := 2 } := rfl

/-- What reset leaves alone: the configuration input and the inputs still to come (R230). -/
@[simp] theorem applyReset_southHist (s : State) : s.applyReset.southHist = s.southHist := rfl

@[simp] theorem applyReset_port (s : State) : s.applyReset.port = s.port := rfl

end Sys2Proof.Machine
end

