-- ==== Sys2Proof/Laws/Exec.lean ====
section
/-! SUPPORT. Each instruction's meaning as one record update over the exact arithmetic, and the inversion
lemmas of `perform` and `step`: what they can answer, said once. -/

namespace Sys2Proof.Machine

open Sys2Proof

theorem exec_nop (s : State) : exec .nop s = .next { s with status := 0 } := rfl

theorem exec_pvnew (r : PvRange) (fl fr bl br : Word) (s : State) :
    exec (.pvnew r fl fr bl br) s =
      .next { s with pv := ((operandValues fl fr bl br).clampTo r).store r, status := 0 } := rfl

theorem exec_pvset (fl fr bl br : Word) (s : State) :
    exec (.pvset fl fr bl br) s =
      .next { s with
        pv := ((operandValues fl fr bl br).clampTo s.pv.range).store s.pv.range, status := 0 } := rfl

theorem exec_pvscale (f : Word) (s : State) :
    exec (.pvscale f) s =
      .next { s with
        pv := ((s.pv.values.scale (fx f)).clampTo s.pv.range).store s.pv.range, status := 0 } := rfl

theorem exec_pvvalues (s : State) :
    exec .pvvalues s =
      .next { s with
        res0 := s.pv.fl, res1 := s.pv.fr, res2 := s.pv.bl, res3 := s.pv.br, status := 0 } := rfl

theorem exec_move2w (m : MoveArg) (s : State) :
    exec (.move2w m) s =
      .next { s with
        pv := LaneValues.store ⟨(diff m).1.1, (diff m).1.2, 0, 0⟩ .signed
        status := if (diff m).2 then 0 else 1 } := by
  rw [← storeMove_eq]; rfl

theorem exec_move4d (m : MoveArg) (s : State) :
    exec (.move4d m) s =
      .next { s with
        pv := LaneValues.store ⟨(diff m).1.1, (diff m).1.2, (diff m).1.1, (diff m).1.2⟩ .signed
        status := if (diff m).2 then 0 else 1 } := by
  rw [← storeMove_eq]; rfl

theorem exec_move4m (m : MoveArg) (s : State) :
    exec (.move4m m) s =
      .next { s with
        pv := (mec m s.southHist).1.store .signed
        status := if (mec m s.southHist).2 then 0 else 1 } := by
  rw [← storeMove_eq]; rfl

theorem exec_mecanum (p : InputScale) (lat lon rot : Word) (s : State) :
    exec (.mecanum p lat lon rot) s =
      .next { s with
        pv := (mecanumMix (motionInput p lat) (motionInput p lon) (motionInput p rot)).store .signed
        status := 0 } := rfl

theorem exec_encdc (src : Source) (emit : Bool) (cha chb : Channel) (s : State) :
    exec (.encdc src emit cha chb) s =
      .next { s with
        pulseA := sat12 (dc (srcval src s)).1
        pulseB := sat12 (dc (srcval src s)).2
        out := s.out ++
          (if emit then
            [{ ch := cha, on := 0, off := sat12 (dc (srcval src s)).1 },
             { ch := chb, on := 0, off := sat12 (dc (srcval src s)).2 }]
           else [])
        status := 0 } := by
  rw [← storePair_eq]; rfl

theorem exec_encang (src : Source) (kind : ServoKind) (emit : Bool) (cha : Channel) (s : State) :
    exec (.encang src kind emit cha) s =
      .next { s with
        pulseA := ang (srcval src s) kind
        pulseB := 0
        out := s.out ++
          (if emit then [{ ch := cha, on := 0, off := ang (srcval src s) kind }] else [])
        status := 0 } := by
  rw [← storeCount_eq]; rfl

theorem exec_enccrs (src : Source) (emit : Bool) (cha : Channel) (slot : Slot) (s : State) :
    exec (.enccrs src emit cha slot) s =
      .next { s with
        pulseA := crs (srcval src s) (s.calSlot slot)
        pulseB := 0
        out := s.out ++
          (if emit then [{ ch := cha, on := 0, off := crs (srcval src s) (s.calSlot slot) }] else [])
        status := 0 } := by
  rw [← storeCount_eq]; rfl

theorem exec_calwr (slot : Slot) (c : Calibration) (s : State) :
    exec (.calwr slot c) s = .next { s with cal := s.cal.set slot c, status := 0 } := rfl

theorem exec_calrd (slot : Slot) (s : State) :
    exec (.calrd slot) s =
      .next { s with
        res0 := calRes0 (s.calSlot slot)
        res1 := calRes1 (s.calSlot slot)
        res2 := calRes2 (s.calSlot slot)
        res3 := 0
        status := 0 } := rfl

/-- The answers of `perform`: a legal command's own meaning, or R97's effect of an illegal word. -/
theorem perform_cases (t : Transaction) (s : State) :
    (∃ i, decode t = .ok i ∧ perform t s = exec i s) ∨
      (∃ e, decode t = .error e ∧ perform t s = .next s.illegalCommand) := by
  unfold perform
  cases h : decode t with
  | ok i => exact .inl ⟨i, rfl, rfl⟩
  | error e => exact .inr ⟨e, rfl, rfl⟩

/-- What a step that answers a next state did: waited, performed the next command, or applied reset. -/
theorem step_cases {s s' : State} (h : step s = .next s') :
    (s.port = [] ∧ s' = s) ∨
      (∃ t rest, s.port = .command t :: rest ∧ perform t { s with port := rest } = .next s') ∨
      (∃ rest, s.port = .reset :: rest ∧ s' = State.resetWith s.southHist rest) := by
  unfold step at h
  cases hp : s.port with
  | nil =>
    rw [hp] at h
    cases h
    exact .inl ⟨rfl, rfl⟩
  | cons x rest =>
    rw [hp] at h
    cases x with
    | command t =>
      refine .inr (.inl ⟨t, rest, rfl, ?_⟩)
      rw [← h, State.takeInput, hp]
      rfl
    | reset =>
      refine .inr (.inr ⟨rest, rfl, ?_⟩)
      cases h
      simp [State.applyReset, hp]

end Sys2Proof.Machine
end

