-- ==== Sys2Proof/Laws/PerInstr.lean ====
section
/-! SUPPORT. The per-instruction family `EncodeRow`: the command word an instruction encodes to matches the
instruction's own row of the opcode table (spec/30_encoding.md R96, R99). One lemma per constructor. -/

namespace Sys2Proof.Laws.EncodeRow

open Sys2Proof

/-- The encoded command word has the row's fixed bits. -/
def Statement (i : Instr) : Prop := i.row.matches (encode i).cmd = true

/-- The family's statement, from fields that lie outside the row's mask. -/
theorem of_disjoint {i : Instr} (r : Row) (f : Word) (hc : (encode i).cmd = r.value ||| f)
    (hr : i.row = r) (hf : f &&& r.mask = 0) : Statement i := by
  have hv : r.value &&& r.mask = r.value := by clear hc hr hf; cases r <;> decide
  simp [Statement, Row.matches, hr, hc, or_and_of_disjoint hv hf]

theorem nop : Statement .nop := of_disjoint .nop 0 rfl rfl (by decide)

theorem pvnew (r : PvRange) (fl fr bl br : Word) : Statement (.pvnew r fl fr bl br) :=
  of_disjoint .pvnew (place r.toBit 0) rfl rfl (by revert r; rintro ⟨⟩ <;> decide)

theorem pvset (fl fr bl br : Word) : Statement (.pvset fl fr bl br) :=
  of_disjoint .pvset 0 rfl rfl (by decide)

theorem pvscale (factor : Word) : Statement (.pvscale factor) :=
  of_disjoint .pvscale 0 rfl rfl (by decide)

theorem pvvalues : Statement .pvvalues := of_disjoint .pvvalues 0 rfl rfl (by decide)

theorem move2w (m : MoveArg) : Statement (.move2w m) :=
  of_disjoint .move2w (place m.toBits 0) rfl rfl (by generalize m.toBits = b; revert b; decide)

theorem move4d (m : MoveArg) : Statement (.move4d m) :=
  of_disjoint .move4d (place m.toBits 0) rfl rfl (by generalize m.toBits = b; revert b; decide)

theorem move4m (m : MoveArg) : Statement (.move4m m) :=
  of_disjoint .move4m (place m.toBits 0) rfl rfl (by generalize m.toBits = b; revert b; decide)

theorem mecanum (p : InputScale) (lat lon rot : Word) : Statement (.mecanum p lat lon rot) :=
  of_disjoint .mecanum (place p.toBit 0) rfl rfl (by revert p; rintro ⟨⟩ <;> decide)

theorem encdc (src : Source) (emit : Bool) (cha chb : Channel) :
    Statement (.encdc src emit cha chb) := by
  refine of_disjoint .encdc _ rfl rfl
    (or_and_zero (or_and_zero (or_and_zero (or_and_zero ?_ ?_) ?_) ?_) ?_)
  · clear chb; revert cha; decide
  · clear cha; revert chb; decide
  · generalize src.laneBits = b; revert b; decide
  · generalize src.sBit = b; revert b; decide
  · revert emit; decide

theorem encang (src : Source) (kind : ServoKind) (emit : Bool) (cha : Channel) :
    Statement (.encang src kind emit cha) := by
  refine of_disjoint .encang _ rfl rfl
    (or_and_zero (or_and_zero (or_and_zero (or_and_zero ?_ ?_) ?_) ?_) ?_)
  · revert cha; decide
  · generalize src.laneBits = b; revert b; decide
  · generalize src.sBit = b; revert b; decide
  · revert emit; decide
  · cases kind <;> decide

theorem enccrs (src : Source) (emit : Bool) (cha : Channel) (slot : Slot) :
    Statement (.enccrs src emit cha slot) := by
  refine of_disjoint .enccrs _ rfl rfl
    (or_and_zero (or_and_zero (or_and_zero (or_and_zero ?_ ?_) ?_) ?_) ?_)
  · revert cha; decide
  · generalize src.laneBits = b; revert b; decide
  · generalize src.sBit = b; revert b; decide
  · revert emit; decide
  · revert slot; decide

theorem calwr (slot : Slot) (points : Calibration) : Statement (.calwr slot points) :=
  of_disjoint .calwr (place (slotBits slot) 16) rfl rfl (by revert slot; decide)

theorem calrd (slot : Slot) : Statement (.calrd slot) :=
  of_disjoint .calrd (place (slotBits slot) 16) rfl rfl (by revert slot; decide)

end Sys2Proof.Laws.EncodeRow
end

