-- ==== Sys2Proof/Laws/Run.lean ====
section
/-! SUPPORT. One step of a run of the host's core, in the model's own names. -/

namespace Sys2Proof.Machine

open Sys2Proof

/-- A run of any core goes on from the state its first step answers. -/
theorem run_succ (M : Host.Core) (k : Nat) {s s' : M.State} (h : M.step s = .next s') :
    M.run (k + 1) s = M.run k s' := by
  rw [Host.Core.run, h]

/-- A run of the block goes on from the state its first step answers. -/
theorem core_run_succ {s s' : State} (k : Nat) (h : step s = .next s') :
    Host.Core.run Sys2Proof.core (k + 1) s = Host.Core.run Sys2Proof.core k s' :=
  run_succ Sys2Proof.core k h

/-- A run of no steps answers its start state. -/
theorem core_run_zero (s : State) : Host.Core.run Sys2Proof.core 0 s = .next s := rfl

end Sys2Proof.Machine
end

