-- ==== Sys2Proof/Tests/Slice0.lean ====
section
/-! SUPPORT. The model's own tests: ill-formed terms that WellFormed refuses, words written out from
spec/30_encoding.md R99 and what they decode to, one-step vectors from spec/95_test_vectors.md, and for
each obligation with hypotheses a concrete witness that meets them. -/

namespace Sys2Proof.Tests

open Sys2Proof Sys2Proof.Machine Sys2Proof.Safety

/-! ## Helpers -/

/-- A transaction with only `OPA` beside the command word. -/
def tx (cmd : Word) (opa : Word := 0) : Transaction := ⟨cmd, opa, 0, 0, 0⟩

/-- The reset state with a Power Vector of the given words. -/
def withPv (r : PvRange) (fl fr bl br : Word) : State := State.reset.setPv ⟨fl, fr, bl, br, r⟩

/-- The reset state after one transaction. -/
def one (t : Transaction) : State := after State.reset t

/-- The reset state with slot 1 as T8 #2 writes it. -/
def withSlot1 : State := State.reset.setCalSlot 1 ⟨500, 330, 300, 270, 100⟩

/-! ## WellFormed -/

/-- R91: code 3 names East, so `unknown 3` is no term of the syntax. -/
theorem test_wf_refuses_move2w : (Instr.move2w (.unknown 3)).wellFormed = false := by decide
theorem test_wf_refuses_move4d : (Instr.move4d (.unknown 10)).wellFormed = false := by decide
theorem test_wf_refuses_move4m : (Instr.move4m (.unknown 0)).wellFormed = false := by decide
theorem test_wf_accepts_unknown : (Instr.move4m (.unknown 11)).wellFormed = true := by decide

/-! ## The named sizes and the widths of the types agree (R7) -/

theorem test_sizes :
    Config.W = 32 ∧ Config.NCH = 2 ^ 4 ∧ Config.NSLOT = 16 ∧ Config.PBITS = 12 ∧ Config.PMAX = 4095 ∧
      Config.ONE = 65536 ∧ Config.DC_FULL = 4095 := by decide

/-! ## Decoding: words written out bit by bit from R99's patterns -/

theorem test_decode_nop :
    (decode ⟨0b00000000000000000000000000000000, 1, 2, 3, 4⟩).toOption = some .nop := by decide
theorem test_decode_pvnew :
    (decode ⟨0b00000001000000000000000000000001, 1, 2, 3, 4⟩).toOption =
      some (.pvnew .unsigned 1 2 3 4) := by decide
theorem test_decode_pvset :
    (decode ⟨0b00000010000000000000000000000000, 1, 2, 3, 4⟩).toOption = some (.pvset 1 2 3 4) := by decide
theorem test_decode_pvscale :
    (decode ⟨0b00000011000000000000000000000000, 1, 2, 3, 4⟩).toOption = some (.pvscale 1) := by decide
theorem test_decode_pvvalues :
    (decode ⟨0b00000100000000000000000000000000, 1, 2, 3, 4⟩).toOption = some .pvvalues := by decide
theorem test_decode_move2w :
    (decode ⟨0b00010000000000000000000000001010, 1, 2, 3, 4⟩).toOption =
      some (.move2w (.named .counterClockWise)) := by decide
theorem test_decode_move4d :
    (decode ⟨0b00010000000000000000000000010110, 1, 2, 3, 4⟩).toOption =
      some (.move4d (.named .southWest)) := by decide
theorem test_decode_move4m :
    (decode ⟨0b00010000000000000000000000101011, 1, 2, 3, 4⟩).toOption =
      some (.move4m (.unknown 11)) := by decide
theorem test_decode_mecanum :
    (decode ⟨0b00010001000000000000000000000001, 1, 2, 3, 4⟩).toOption =
      some (.mecanum .percent 1 2 3) := by decide
theorem test_decode_encdc :
    (decode ⟨0b00100000000000000000111001011100, 1, 2, 3, 4⟩).toOption =
      some (.encdc (.lane .bl) true 12 5) := by decide
theorem test_decode_encang :
    (decode ⟨0b00100001000000000001000100001001, 1, 2, 3, 4⟩).toOption =
      some (.encang (.operand .fr 1) .deg270 false 9) := by decide
theorem test_decode_enccrs :
    (decode ⟨0b00100010000011010000111100000110, 1, 2, 3, 4⟩).toOption =
      some (.enccrs (.lane .br) true 6 13) := by decide
theorem test_decode_calwr :
    (decode ⟨0b00110000000001010000000000000000, 0xF0FFFFFF, 0x00020003, 0xFFFFF004, 0⟩).toOption =
      some (.calwr 5 ⟨0xFFF, 0x0FF, 3, 2, 4⟩) := by decide
theorem test_decode_calrd :
    (decode ⟨0b00110001000010100000000000000000, 1, 2, 3, 4⟩).toOption = some (.calrd 10) := by decide

/-- T9: the illegal words of the table, each with its kind of R98. -/
theorem test_decode_illegal :
    [0x00000001, 0x01000002, 0x0400000F, 0x05000000, 0x10000030, 0x10000032, 0x10000040, 0x11000002,
     0x20001000, 0x21000010, 0x2100E000, 0x30100000, 0xFF000000].map (fun w : Word =>
        if (decodeRow w).isSome then none else some (rejectOf w)) =
    [some .reservedBits, some .reservedBits, some .reservedBits, some (.reservedOpcode 5),
     some .noLayout, some .noLayout, some .reservedBits, some .reservedBits, some .reservedBits,
     some .reservedBits, some .reservedBits, some .reservedBits, some (.reservedOpcode 255)] := by decide

/-- R180: the transaction of `CALWR 1, 500, 330, 300, 270, 100`. -/
theorem test_encode_calwr :
    encode (.calwr 1 ⟨500, 330, 300, 270, 100⟩) =
      ⟨0x30010000, 0x014A01F4, 0x010E012C, 0x00000064, 0⟩ := by decide

/-- R62: the bytes of that transaction's first two words, byte 0 first. -/
theorem test_bytes_little_endian :
    (encodeBytes (.calwr 1 ⟨500, 330, 300, 270, 100⟩)).take 8 =
      [0x00, 0x00, 0x01, 0x30, 0xF4, 0x01, 0x4A, 0x01] := by decide

/-! ## One step of each command (95_test_vectors.md) -/

/-- T1 #14. -/
theorem test_nop : (after (State.reset.setStatus 1) (tx 0x00000000)) = State.reset := by decide +kernel

/-- T1 #1 and #2. -/
theorem test_pvnew :
    (one ⟨0x01000000, 0x00018000, 0xFFFF8000, 0xFFFE0000, 0x00004000⟩).pv =
      ⟨0x00010000, 0xFFFF8000, 0xFFFF0000, 0x00004000, .signed⟩ ∧
    (one ⟨0x01000001, 0x00018000, 0xFFFF8000, 0xFFFE0000, 0x00004000⟩).pv =
      ⟨0x00010000, 0x00000000, 0x00000000, 0x00004000, .unsigned⟩ := by decide +kernel

/-- T1 #10: the extreme words. -/
theorem test_pvnew_extreme :
    (one ⟨0x01000000, 0x7FFFFFFF, 0x80000000, 0, 0⟩).pv = ⟨0x00010000, 0xFFFF0000, 0, 0, .signed⟩ := by
  decide +kernel

/-- T1 #11: PVSET keeps the range. -/
theorem test_pvset :
    (after (withPv .unsigned 0 0 0 0) ⟨0x02000000, 0xFFFF8000, 0x0000C000, 0x00020000, 0⟩).pv =
      ⟨0x00000000, 0x0000C000, 0x00010000, 0x00000000, .unsigned⟩ := by decide +kernel

/-- T1 #4 to #6: clamping after the product, in both ranges. -/
theorem test_pvscale_clamps :
    (after (withPv .signed 0x00010000 0x00008000 0xFFFF8000 0) (tx 0x03000000 0x00030000)).pv =
      ⟨0x00010000, 0x00010000, 0xFFFF0000, 0, .signed⟩ ∧
    (after (withPv .signed 0x00010000 0x00008000 0xFFFF8000 0) (tx 0x03000000 0xFFFF0000)).pv =
      ⟨0xFFFF0000, 0xFFFF8000, 0x00008000, 0, .signed⟩ ∧
    (after (withPv .unsigned 0x00010000 0x00008000 0 0) (tx 0x03000000 0xFFFF0000)).pv =
      ⟨0, 0, 0, 0, .unsigned⟩ := by decide +kernel

/-- T1 #7: ties go up. -/
theorem test_pvscale_ties :
    (after (withPv .signed 0x00000001 0xFFFFFFFF 0x00000003 0xFFFFFFFD) (tx 0x03000000 0x00008000)).pv =
      ⟨0x00000001, 0x00000000, 0x00000002, 0xFFFFFFFF, .signed⟩ := by decide +kernel

/-- T1 #13. -/
theorem test_pvvalues :
    (fun s : State => [s.res0, s.res1, s.res2, s.res3])
        (after (withPv .signed 0xFFFF0000 0x00010000 2 3) (tx 0x04000000)) =
      [0xFFFF0000, 0x00010000, 2, 3] := by decide +kernel

/-- S7: North and ClockWise. -/
theorem test_move2w :
    (one (tx 0x10000001)).pv = ⟨0x00010000, 0x00010000, 0, 0, .signed⟩ ∧
    (one (tx 0x10000009)).pv = ⟨0xFFFF0000, 0x00010000, 0, 0, .signed⟩ := by decide +kernel

/-- T2: an unsupported move gives Stop and status 1, in the signed range. -/
theorem test_move2w_unsupported :
    (after (withPv .unsigned 5 6 7 8) (tx 0x10000002)) =
      (withPv .signed 0 0 0 0).setStatus 0x00000001 := by decide +kernel

/-- R133: ClockWise on four wheels, and code 15. -/
theorem test_move4d :
    (one (tx 0x10000019)).pv = ⟨0xFFFF0000, 0x00010000, 0xFFFF0000, 0x00010000, .signed⟩ ∧
    (one (tx 0x1000001F)).status = 0x00000001 := by decide +kernel

/-- S8: NorthEast, and code 12 of P3. -/
theorem test_move4m :
    (one (tx 0x10000022)).pv = ⟨0, 0x00010000, 0, 0x00010000, .signed⟩ ∧
    (one (tx 0x10000022)).status = 0 ∧ (one (tx 0x1000002C)).status = 1 := by decide +kernel

/-- P4: South under both settings of `SOUTH_HIST`. -/
theorem test_move4m_south :
    (one (tx 0x10000025)).pv = ⟨0xFFFF0000, 0xFFFF0000, 0xFFFF0000, 0xFFFF0000, .signed⟩ ∧
    (after (State.resetWith true []) (tx 0x10000025)).pv =
      ⟨0, 0xFFFF0000, 0xFFFF0000, 0, .signed⟩ := by decide +kernel

/-- T3 #1, #5, #9, #14. -/
theorem test_mecanum :
    (one ⟨0x11000000, 0, 0, 0, 0⟩).pv = ⟨0, 0, 0, 0, .signed⟩ ∧
    (one ⟨0x11000000, 0x00010000, 0x00010000, 0x00010000, 0⟩).pv =
      ⟨0x00010000, 0xFFFFAAAB, 0x00005555, 0x00005555, .signed⟩ ∧
    (one ⟨0x11000000, 0xFFFF0000, 0x00008000, 0x00004000, 0⟩).pv =
      ⟨0xFFFFDB6E, 0xFFFF0000, 0xFFFF4925, 0xFFFF9249, .signed⟩ ∧
    (one ⟨0x11000000, 0x00008000, 0xFFFFAAAB, 0, 0⟩).pv =
      ⟨0x00003334, 0x00010000, 0x00010000, 0x00003334, .signed⟩ := by decide +kernel

/-- T4 #1, #4, #5: the percent scale. -/
theorem test_mecanum_percent :
    (one ⟨0x11000001, 0x00320000, 0, 0, 0⟩).pv =
      ⟨0x00010000, 0x00010000, 0x00010000, 0x00010000, .signed⟩ ∧
    (one ⟨0x11000001, 0, 0xFF9C0000, 0x00320000, 0⟩).pv =
      ⟨0xFFFFAAAB, 0x00005555, 0x00010000, 0xFFFF0000, .signed⟩ ∧
    (one ⟨0x11000001, 0xFFE20000, 0x00280000, 0x001E0000, 0⟩).pv =
      ⟨0x00006666, 0xFFFF0000, 0xFFFF999A, 0xFFFFCCCD, .signed⟩ := by decide +kernel

/-- T5: 0.5, -0.5, 2^-16, -2. -/
theorem test_encdc :
    [0x00008000, 0xFFFF8000, 0x00000001, 0xFFFE0000].map
        (fun v : Word => ((one (tx 0x20000010 v)).pulseA, (one (tx 0x20000010 v)).pulseB)) =
      [(2048, 0), (0, 2048), (0, 0), (0, 4095)] := by decide +kernel

/-- T5, source select and `CHA = CHB`: the forward count is emitted first. -/
theorem test_encdc_emit :
    (after (withPv .signed 0 0xFFFFAAAB 0 0) (tx 0x20000D32)).out = [⟨2, 0, 0⟩, ⟨3, 0, 1365⟩] ∧
    (one (tx 0x20000833 0x00008000)).out = [⟨3, 0, 2048⟩, ⟨3, 0, 0⟩] := by decide +kernel

/-- T6 on the 180° servo: 90, 200, 0, a tie, -59, -90. -/
theorem test_encang :
    [0x005A0000, 0x00C80000, 0x00000000, 0xFFE20780, 0xFFC50000, 0xFFA60000].map
        (fun d : Word => (one (tx 0x21000000 d)).pulseA) =
      [307, 307, 123, 62, 2, 0] := by decide +kernel

/-- T6 on the 270° servo: 135, 100, -61; and P3 #6's emission. -/
theorem test_encang_270 :
    [0x00870000, 0x00640000, 0xFFC30000].map (fun d : Word => (one (tx 0x21001000 d)).pulseA) =
      [399, 328, 0] ∧
    (one (tx 0x21000808 0x002D0000)).out = [⟨8, 0, 215⟩] := by decide +kernel

/-- T7, default slot: 0, 1, -1, 2^-16, -2^-16, 1/16, -1/16. -/
theorem test_enccrs :
    [0x00000000, 0x00010000, 0xFFFF0000, 0x00000001, 0xFFFFFFFF, 0x00001000, 0xFFFFF000].map
        (fun v : Word => (one (tx 0x22000000 v)).pulseA) =
      [310, 535, 85, 335, 285, 348, 273] := by decide +kernel

/-- T7, slot 1, whose points fall: 0, 1, -1, 0.5, -0.5. -/
theorem test_enccrs_slot1 :
    [0x00000000, 0x00010000, 0xFFFF0000, 0x00008000, 0xFFFF8000].map
        (fun v : Word => (after withSlot1 (tx 0x22010000 v)).pulseA) =
      [300, 100, 500, 185, 415] := by decide +kernel

/-- T8 #4: ignored operand bits are dropped, and no other slot changes. -/
theorem test_calwr :
    one ⟨0x30030000, 0xF0FFFFFF, 0xFFFFFFFF, 0xFFFFFFFF, 0xFFFFFFFF⟩ =
      State.reset.setCalSlot 3 ⟨4095, 255, 4095, 4095, 4095⟩ := by decide +kernel

/-- S11 and T8 #3. -/
theorem test_calrd :
    one (tx 0x31000000) = State.reset.setRes 0x011D0055 0x014F0136 0x00000217 0x00000000 ∧
    after withSlot1 (tx 0x31010000) = withSlot1.setRes 0x014A01F4 0x010E012C 0x00000064 0x00000000 := by
  decide +kernel

/-- P3 #3: an illegal word leaves everything but `STATUS`. -/
theorem test_illegal_word :
    after (withPv .unsigned 0x8000 0 0x10000 0x4000) (tx 0x05000000 0x00010000) =
      (withPv .unsigned 0x8000 0 0x10000 0x4000).setStatus 0x00000002 := by decide +kernel

/-- R231: reset is an input between commands. -/
theorem test_reset_input :
    step ((withPv .unsigned 1 2 3 4).present .reset) = .next State.reset := rfl

/-! ## Assembler text (R100 to R102) -/

/-- S9, T8 #2, P3 #6 and a pseudo-instruction of R101. -/
theorem test_assemble :
    ["MECANUM.P 50, 0, 0 ; S9", "CALWR 1, 500, 330, 300, 270, 100", "ENCANG.E #45, 8, 90",
     "ENCPV.DC fr, 2, 3", "MOVE.4M #12", "ENCDC #-0.5"].map
        (fun l : String => (assembleLine l.toList).toOption) =
    [some (some (⟨0x11000001, 0x00320000, 0, 0, 0⟩ : Transaction)),
     some (some ⟨0x30010000, 0x014A01F4, 0x010E012C, 0x00000064, 0⟩),
     some (some (tx 0x21000808 0x002D0000)), some (some (tx 0x20000D32)), some (some (tx 0x1000002C)),
     some (some (tx 0x20000000 0xFFFF8000))] := by decide +kernel

/-- R100: a value outside the 32-bit range, a channel out of its field, and an unknown mnemonic. -/
theorem test_assemble_refuses :
    ["PVSCALE 32768", "ENCDC.E #1, 16, 0", "HALT", "ENCANG #1, 0, 100"].all
        (fun l : String => (assembleLine l.toList).toOption.isNone) = true := by decide +kernel

/-- R102: a legal word with every field shown, an unknown move code, an illegal word. -/
theorem test_disassemble :
    [tx 0x21001009 0xFF380000, tx 0x1000002C, tx 0x05000000].map disassemble =
      ["ENCANG #-200, 9, 135".toList, "MOVE.4M #12".toList, ".word 0x05000000".toList] := by
  decide +kernel

/-! ## Witnesses: for each obligation with hypotheses, values that meet them all -/

theorem witness_DecodeEncodeRoundTrip :
    (Instr.move4m (.unknown 11)).wellFormed = true ∧ (Instr.move2w (.named .stop)).wellFormed = true ∧
      (Instr.enccrs (.operand .br 7) true 15 15).wellFormed = true := by decide

theorem witness_DecodeBytesOfEncodeBytes :
    (Instr.move4d (.unknown 15)).wellFormed = true ∧
      (Instr.encdc (.lane .br) false 15 0).wellFormed = true := by decide

theorem witness_DecodedWordIsKept :
    decode (tx 0x22000100 5) = .ok (.enccrs (.operand .fr 5) false 0 0) ∧
      decode (tx 0x1000002F) = .ok (.move4m (.unknown 15)) := ⟨rfl, rfl⟩

theorem witness_PartialTransactionIsNoCommand :
    ([] : List Byte).length < 20 ∧ (List.replicate 19 (0 : Byte)).length < 20 := by decide

/-- One witness for each of the three clauses. -/
theorem witness_UnreadOperandWordsHaveNoEffect :
    (decodeRow (tx 0x03000000 1).cmd = some .pvscale ∧
      agreeOn (operandsRead .pvscale) (tx 0x03000000 1) ⟨0x03000000, 1, 2, 3, 4⟩) ∧
    (decodeRow (tx 0x05000000 1).cmd = none ∧ (tx 0x05000000 1).cmd = (tx 0x05000000 2).cmd) ∧
    (decodeRow (tx 0x20000D32 1).cmd = some .encdc ∧ Row.encdc ∈ [Row.encdc, Row.encang, Row.enccrs] ∧
      bits (tx 0x20000D32 1).cmd 10 1 = 1 ∧ (tx 0x20000D32 1).cmd = (tx 0x20000D32 2).cmd) := by
  refine ⟨⟨by decide, rfl, fun _ => rfl, ?_, ?_, ?_⟩, by decide, by decide⟩ <;> decide

theorem witness_ResetBetweenCommands :
    ((withPv .unsigned 1 2 3 4).present .reset).port = .reset :: [] := rfl

/-- A state at the bounds of its range, with every status and output register used. -/
theorem witness_StepKeepsInv :
    ∃ s s' : State, s.pv = ⟨0x00010000, 0xFFFF0000, 0, 0x00010000, .signed⟩ ∧ s.status = 2 ∧
      s.out = [⟨15, 0, 4095⟩] ∧ Inv s ∧ step s = .next s' :=
  ⟨{ (withPv .signed 0x00010000 0xFFFF0000 0 0x00010000) with
      status := 2, out := [⟨15, 0, 4095⟩], port := [.command (tx 0x03000000 0x00008000)] },
    _, rfl, rfl, rfl, ⟨by decide, by decide, by decide⟩, rfl⟩

theorem witness_EveryPvWriteIsInRange :
    ∃ s' : State, writesPv (Instr.pvscale 0x00030000).row = true ∧
      exec (.pvscale 0x00030000) (withPv .unsigned 0xFFFFFFFF 0x00020000 0 0) = .next s' := ⟨_, rfl, rfl⟩

/-- One witness for each of the two clauses. -/
theorem witness_StepRunsDecodedInstruction :
    ((State.reset.present (.command (tx 0x04000000))).port = .command (tx 0x04000000) :: [] ∧
      decode (tx 0x04000000) = .ok .pvvalues) ∧
    ((State.reset.present (.command (tx 0x10000030))).port = .command (tx 0x10000030) :: [] ∧
      decode (tx 0x10000030) = .error .noLayout) := ⟨⟨rfl, rfl⟩, rfl, rfl⟩

theorem witness_PresentedWordIsRunNext :
    decodeTableWord 32 0x1000000F = some (.move2w (.unknown 15)) := by decide

theorem witness_WaitingHoldsTheState : (withPv .unsigned 1 2 3 4).port = [] := rfl

theorem witness_IllegalWordWritesOnlyStatus :
    ∀ r : Row, (tx 0x10000030).cmd &&& r.mask ≠ r.value := by rintro ⟨⟩ <;> decide

theorem witness_NoCommandChangesTheNextInput :
    ∃ s' : State, step (State.reset.present (.command (tx 0x10000001))) = .next s' := ⟨_, rfl⟩

/-- One witness for each clause with hypotheses. -/
theorem witness_SouthHistIsReadOnlyBySouth :
    (∃ s' : State, step (State.reset.present (.command (tx 0x10000025))) = .next s') ∧
    (∃ s' : State, Instr.move4m (.named .southWest) ≠ .move4m (.named .south) ∧
      exec (.move4m (.named .southWest)) State.reset = .next s') :=
  ⟨⟨_, rfl⟩, _, by decide, rfl⟩

/-- One witness for each of the two clauses. -/
theorem witness_StatusAfterEveryCommand :
    (∃ s' : State, perform (tx 0xFF000000) State.reset = .next s' ∧
      decode (tx 0xFF000000) = .error (.reservedOpcode 0xFF)) ∧
    (∃ s' : State, perform (tx 0x1000000F) State.reset = .next s' ∧
      decode (tx 0x1000000F) = .ok (.move2w (.unknown 15))) :=
  ⟨⟨_, rfl, rfl⟩, _, rfl, rfl⟩

/-- One witness for each clause with a hypothesis: a command that writes no Power Vector, no result word and no
calibration slot, one that writes no pulse register, one that writes lanes and keeps the range, and an
encoder that does not emit. -/
theorem witness_RegistersAreWrittenOnlyByTheirCommands :
    (∃ s' : State, exec (.encang (.lane .fl) .deg180 true 3) State.reset = .next s' ∧
      writesPv (Instr.encang (.lane .fl) .deg180 true 3).row = false ∧
      writesRes (Instr.encang (.lane .fl) .deg180 true 3).row = false ∧
      (Instr.encang (.lane .fl) .deg180 true 3).row ≠ .calwr) ∧
    (∃ s' : State, exec (.calwr 0 ⟨1, 2, 3, 4, 5⟩) State.reset = .next s' ∧
      writesPulses (Instr.calwr 0 ⟨1, 2, 3, 4, 5⟩).row = false) ∧
    (∃ s' : State, exec (.pvset 0 0x00010000 0 0) (withPv .unsigned 0 0 0 0) = .next s' ∧
      writesRange (Instr.pvset 0 0x00010000 0 0).row = false) ∧
    (∃ s' : State, exec (.encdc (.operand .fl 0x8000) false 0 1) State.reset = .next s' ∧
      writesOut (.encdc (.operand .fl 0x8000) false 0 1) = false) :=
  ⟨⟨_, rfl, by decide⟩, ⟨_, rfl, by decide⟩, ⟨_, rfl, by decide⟩, _, rfl, by decide⟩

/-- Slot 2 over a step that writes slot 1. -/
theorem witness_CalibrationSlotLifetime :
    ∃ s s' : State, step s = .next s' ∧ (∀ rest, s.port ≠ .reset :: rest) ∧
      ∀ t rest c, s.port = .command t :: rest → decode t ≠ .ok (.calwr 2 c) := by
  refine ⟨State.reset.present (.command (tx 0x30010000 7)), _, rfl, ?_, ?_⟩
  · intro rest h
    cases h
  · intro t rest c h hd
    cases h
    cases hd

theorem witness_OutGrowsByTheEmittedCounts :
    ∃ s' : State, exec (.encdc (.operand .fl 0x8000) true 15 0) State.reset = .next s' := ⟨_, rfl⟩

theorem witness_ListedCommandsAreIdempotent :
    ∃ s' : State, idempotent (.encdc (.operand .fl 0x8000) false 15 0) = true ∧
      exec (.encdc (.operand .fl 0x8000) false 15 0) State.reset = .next s' := ⟨_, rfl, rfl⟩

theorem witness_NopResult : (tx 0x00000000 9).cmd &&& 0xFFFFFFFF = 0x00000000 := by decide
theorem witness_PvnewResult :
    (tx 0x01000000).cmd &&& 0xFFFFFFFE = 0x01000000 ∧
      (tx 0x01000001).cmd &&& 0xFFFFFFFE = 0x01000000 := by decide
theorem witness_PvsetResult : (tx 0x02000000).cmd &&& 0xFFFFFFFF = 0x02000000 := by decide
theorem witness_PvscaleResult : (tx 0x03000000 9).cmd &&& 0xFFFFFFFF = 0x03000000 := by decide
theorem witness_PvvaluesResult : (tx 0x04000000).cmd &&& 0xFFFFFFFF = 0x04000000 := by decide

/-- Three words, one inside each range and at each of its bounds; and a command that answers. -/
theorem witness_ClampingIsIdempotent :
    PvInRange ⟨0x00010000, 0xFFFF0000, 0, 0x8000, (withPv .signed 0 0 0 0).pv.range⟩ ∧
    PvInRange ⟨0x00010000, 0, 1, 0x8000, .unsigned⟩ ∧
    ∃ s' : State, exec (.pvset 0x00020000 0xFFF00000 0 0x8000) State.reset = .next s' :=
  ⟨by decide, by decide, _, rfl⟩

theorem witness_ScaleByOneZeroAndNegative :
    PvInRange (withPv .signed 0x00010000 0xFFFF0000 0 1).pv ∧
    ((0xFFFFFFFF : Word).toInt < 0 ∧ PvInRange (withPv .unsigned 0x00010000 0 1 2).pv ∧
      (withPv .unsigned 0x00010000 0 1 2).pv.range = .unsigned) := by decide

theorem witness_Move2wResult : (tx 0x1000000F).cmd &&& 0xFFFFFFF0 = 0x10000000 := by decide
theorem witness_Move4dResult : (tx 0x10000010).cmd &&& 0xFFFFFFF0 = 0x10000010 := by decide
theorem witness_Move4mResult : (tx 0x1000002F).cmd &&& 0xFFFFFFF0 = 0x10000020 := by decide
theorem witness_MecanumResult : (tx 0x11000001).cmd &&& 0xFFFFFFFE = 0x11000000 := by decide

theorem witness_MecanumLanesAreBounded :
    ∃ s' : State, exec (.mecanum .unit 0x80000000 0x7FFFFFFF 1) State.reset = .next s' := ⟨_, rfl⟩

/-- One witness for each of the two clauses, the first at the smallest motion. -/
theorem witness_MecanumHasFullMagnitude :
    (∃ s' : State, exec (.mecanum .percent 0x00000001 0 0) State.reset = .next s' ∧
      ((0x00000001 : Word) ≠ 0 ∨ (0 : Word) ≠ 0 ∨ (0 : Word) ≠ 0)) ∧
    (∃ s' : State, exec (.mecanum .unit 0 0 0) State.reset = .next s' ∧
      (0 : Word) = 0 ∧ (0 : Word) = 0 ∧ (0 : Word) = 0) :=
  ⟨⟨_, rfl, by decide⟩, _, rfl, by decide⟩

theorem witness_PercentScaleIsAHundredth :
    (0x00320000 : Word).toInt = 100 * (0x00008000 : Word).toInt ∧
      (0xFFE70000 : Word).toInt = 100 * (0xFFFFC000 : Word).toInt ∧
      (0 : Word).toInt = 100 * (0 : Word).toInt := by decide

theorem witness_DiscreteAndContinuousDiffer :
    ∃ s' : State, exec (.move4m (.unknown 15)) State.reset = .next s' := ⟨_, rfl⟩

theorem witness_EncdcResult : (tx 0x20000FFF).cmd &&& 0xFFFFF000 = 0x20000000 := by decide
theorem witness_EncangResult : (tx 0x21001F0F).cmd &&& 0xFFFFE0F0 = 0x21000000 := by decide
theorem witness_EnccrsResult : (tx 0x220F0F0F).cmd &&& 0xFFF0F0F0 = 0x22000000 := by decide

/-- Two angles in order, and the boundary of each clause: -60, 90 and 135 degrees. -/
theorem witness_AngularCountIsMonotone :
    (∃ s1 s2 : State, exec (.encang (.operand .fl 0xFFC40000) .deg180 true 3) State.reset = .next s1 ∧
      exec (.encang (.operand .fl 0x005A0000) .deg180 true 3) State.reset = .next s2 ∧
      (0xFFC40000 : Word).toInt ≤ (0x005A0000 : Word).toInt ∧
      (0xFFC40000 : Word).toInt ≤ -60 * 65536) ∧
    (∃ s1 s2 : State, exec (.encang (.operand .fl 0x005A0000) .deg180 false 3) State.reset = .next s1 ∧
      exec (.encang (.operand .fl 0) .deg180 false 3) State.reset = .next s2 ∧
      90 * 65536 ≤ (0x005A0000 : Word).toInt) ∧
    (∃ s1 s2 : State, exec (.encang (.operand .fl 0x00870000) .deg270 false 3) State.reset = .next s1 ∧
      exec (.encang (.operand .fl 0) .deg270 false 3) State.reset = .next s2 ∧
      135 * 65536 ≤ (0x00870000 : Word).toInt) :=
  ⟨⟨_, _, rfl, rfl, by decide⟩, ⟨_, _, rfl, rfl, by decide⟩, _, _, rfl, rfl, by decide⟩

/-- The source word of each clause at its boundary: 0, 65536, -65536, 1, -1. -/
theorem witness_ContinuousServoEndpoints :
    (∃ s' : State, exec (.enccrs (.operand .fl 0) true 3 1) withSlot1 = .next s') ∧
    (sourceWord (.operand .fl 0) withSlot1).toInt = 0 ∧
    (∃ s' : State, exec (.enccrs (.operand .fl 0x00010000) true 3 1) withSlot1 = .next s') ∧
    65536 ≤ (sourceWord (.operand .fl 0x00010000) withSlot1).toInt ∧
    (∃ s' : State, exec (.enccrs (.operand .fl 0xFFFF0000) true 3 1) withSlot1 = .next s') ∧
    (sourceWord (.operand .fl 0xFFFF0000) withSlot1).toInt ≤ -65536 ∧
    (∃ s' : State, exec (.enccrs (.operand .fl 1) true 3 1) withSlot1 = .next s') ∧
    0 < (sourceWord (.operand .fl 1) withSlot1).toInt ∧
    (∃ s' : State, exec (.enccrs (.operand .fl 0xFFFFFFFF) true 3 1) withSlot1 = .next s') ∧
    (sourceWord (.operand .fl 0xFFFFFFFF) withSlot1).toInt < 0 :=
  ⟨⟨_, rfl⟩, by decide, ⟨_, rfl⟩, by decide, ⟨_, rfl⟩, by decide, ⟨_, rfl⟩, by decide, ⟨_, rfl⟩, by decide⟩

theorem witness_LaterWriteIsInEffect :
    ∃ s' : State, exec (.encdc (.operand .fl 0x8000) true 0 15) State.reset = .next s' ∧
      (0 : Channel) ≠ 15 := ⟨_, rfl, by decide⟩

theorem witness_CalrdResult : (tx 0x310F0000).cmd &&& 0xFFF0FFFF = 0x31000000 := by decide

end Sys2Proof.Tests
end

/-! # The state family: what a step does to the registers

Every statement of this family is about which registers a command writes and what it leaves in them. So
`ExecEffect` says once what a command can do, register by register as spec/10_state.md R31 lists the writers,
`exec_effect` proves it of the model, and the statements are read off from it. -/

namespace Sys2Proof.Proofs.StateFamily

open Sys2Proof Sys2Proof.Machine Sys2Proof.Safety

/-! ## Lanes in range (R36) -/

theorem laneInRange_tofx_clamp (x : ℚ) (r : PvRange) :
    LaneInRange r (tofx (clamp x (rangeLo r) (rangeHi r))) := by
  have hlo : rangeLo r * 65536 = (laneLo r : ℚ) := by cases r <;> norm_num [rangeLo, laneLo]
  have h := tofx_clamp_mem x r
  rw [hlo] at h
  exact_mod_cast h

theorem pvInRange_store_clampTo (v : LaneValues) (r : PvRange) : PvInRange ((v.clampTo r).store r) :=
  ⟨laneInRange_tofx_clamp v.fl r, laneInRange_tofx_clamp v.fr r,
    laneInRange_tofx_clamp v.bl r, laneInRange_tofx_clamp v.br r⟩

/-- Every value of a vector lies in [-1, 1], the signed range. -/
structure WithinOne (v : LaneValues) : Prop where
  fl : |v.fl| ≤ 1
  fr : |v.fr| ≤ 1
  bl : |v.bl| ≤ 1
  br : |v.br| ≤ 1

theorem clamp_signed_of_abs_le_one {x : ℚ} (h : |x| ≤ 1) :
    clamp x (rangeLo .signed) (rangeHi .signed) = x :=
  clamp_of_mem (abs_le.mp h).1 (abs_le.mp h).2

/-- The moves and MECANUM store without a clamp; on vectors within one it would change nothing. -/
theorem WithinOne.pvInRange_store {v : LaneValues} (h : WithinOne v) : PvInRange (v.store .signed) := by
  have hclamp : v.clampTo .signed = v := by
    simp only [LaneValues.clampTo, clamp_signed_of_abs_le_one, h.fl, h.fr, h.bl, h.br]
  rw [← hclamp]
  exact pvInRange_store_clampTo v .signed

theorem abs_diff_le_one (m : MoveArg) : |(diff m).1.1| ≤ 1 ∧ |(diff m).1.2| ≤ 1 := by
  cases m with
  | named m => cases m <;> simp [diff, diffVector]
  | unknown code => simp [diff]

theorem withinOne_mec (m : MoveArg) (southHist : Bool) : WithinOne (mec m southHist).1 := by
  cases m with
  | named m => cases m <;> cases southHist <;> constructor <;> simp [mec, mecVector]
  | unknown code => constructor <;> simp [mec]

/-- R136: the divisor is the sum of the absolute inputs, so no lane leaves [-1, 1]. -/
theorem withinOne_mecanumMix (lat lon rot : ℚ) : WithinOne (mecanumMix lat lon rot) := by
  simp only [mecanumMix]
  split
  · constructor <;> simp
  · have key : ∀ n, |n| ≤ |lat| + |lon| + |rot| → |n / (|lat| + |lon| + |rot|)| ≤ 1 := by
      intro n hn
      have hr : 0 ≤ |lat| + |lon| + |rot| := by positivity
      rw [abs_div, abs_of_nonneg hr]
      exact div_le_one_of_le₀ hn hr
    constructor <;> apply key
    · exact abs_add_three lat lon rot
    · simpa [sub_eq_add_neg] using abs_add_three lat (-lon) (-rot)
    · simpa [sub_eq_add_neg] using abs_add_three lat (-lon) rot
    · simpa [sub_eq_add_neg] using abs_add_three lat lon (-rot)

/-! ## `STATUS` (R40, R41) -/

/-- The commands whose move the model's tables do not support. On ill-formed move operands, which no word
decodes to, this differs from `reportsUnsupported`, R203's list of codes. -/
def unsupported : Instr → Bool
  | .move2w m => !(diff m).2
  | .move4d m => !(diff m).2
  | .move4m m => !(mec m false).2
  | _ => false

/-- The word a command writes to `STATUS`. -/
def statusReport (i : Instr) : Word := if unsupported i then 1 else 0

theorem statusLegal_statusReport (i : Instr) : StatusLegal (statusReport i) := by
  unfold statusReport
  split
  · exact .inr (.inl rfl)
  · exact .inl rfl

theorem mec_supported_eq (m : MoveArg) (h h' : Bool) : (mec m h).2 = (mec m h').2 := by
  cases m <;> rfl

theorem not_diff_supported {m : MoveArg} (h : m.wellFormed) :
    (!(diff m).2) = [2, 3, 4, 6, 7, 8, 11, 12, 13, 14, 15].contains m.toBits.toNat := by
  cases m with
  | named m => cases m <;> rfl
  | unknown code => revert h; revert code; decide

theorem not_mec_supported {m : MoveArg} (h : m.wellFormed) (southHist : Bool) :
    (!(mec m southHist).2) = [11, 12, 13, 14, 15].contains m.toBits.toNat := by
  cases m with
  | named m => cases m <;> rfl
  | unknown code => revert h; revert code; simp only [mec]; decide

theorem unsupported_eq_reportsUnsupported {i : Instr} (h : i.wellFormed) :
    unsupported i = reportsUnsupported i := by
  cases i with
  | move2w m => exact not_diff_supported h
  | move4d m => exact not_diff_supported h
  | move4m m => exact not_mec_supported h false
  | _ => rfl

theorem row_instr_wellFormed (r : Row) (t : Transaction) : (r.instr t).wellFormed := by
  cases r with
  | move2w => exact moveArg_ofBits_wellFormed _
  | move4d => exact moveArg_ofBits_wellFormed _
  | move4m => exact moveArg_ofBits_wellFormed _
  | _ => rfl

theorem decode_wellFormed {t : Transaction} {i : Instr} (h : decode t = .ok i) : i.wellFormed := by
  obtain ⟨r, -, -, hr⟩ | ⟨-, he⟩ := decode_cases t
  · rw [hr] at h
    cases h
    exact row_instr_wellFormed r t
  · simp [he] at h

/-! ## Emission (R46, R151) -/

theorem emitted_eq_nil_of_not_writesOut {i : Instr} (h : writesOut i = false) (a b : PulseCount) :
    emitted i a b = [] := by
  cases i with
  | encdc src emit cha chb => cases h; rfl
  | encang src kind emit cha => cases h; rfl
  | enccrs src emit cha slot => cases h; rfl
  | _ => rfl

theorem outLegal_emitted (i : Instr) (a b : PulseCount) : OutLegal (emitted i a b) := by
  unfold emitted
  split <;> simp [OutLegal]

/-! ## Everything a command can do -/

/-- R31: what a command `i` that is performed in the state `s` can answer, one constructor per group of
registers. -/
inductive ExecEffect (i : Instr) (s : State) : State → Prop
  /-- R35, R36: the Power Vector, in range; the range itself is kept by PVSET and PVSCALE. -/
  | writePv (pv : PowerVector) (writer : writesPv i.row = true) (inRange : PvInRange pv)
      (keepsRange : writesRange i.row = false → pv.range = s.pv.range) (silent : writesOut i = false) :
      ExecEffect i s { s with pv := pv, status := statusReport i }
  /-- R38: the result words. -/
  | writeRes (r0 r1 r2 r3 : Word) (writer : writesRes i.row = true) (silent : writesOut i = false) :
      ExecEffect i s { s with res0 := r0, res1 := r1, res2 := r2, res3 := r3, status := statusReport i }
  /-- R39, R46: the pulse registers, and their counts emitted. -/
  | writePulses (a b : PulseCount) (writer : writesPulses i.row = true) :
      ExecEffect i s
        { s with pulseA := a, pulseB := b, out := s.out ++ emitted i a b, status := statusReport i }
  /-- R44, R180: one calibration slot. -/
  | writeCal (slot : Slot) (points : Calibration) (calwr : i = .calwr slot points) :
      ExecEffect i s { s with cal := s.cal.set slot points, status := statusReport i }
  /-- R110: `STATUS` alone. -/
  | writeStatus (nop : i.row = .nop) (silent : writesOut i = false) :
      ExecEffect i s { s with status := statusReport i }

/-- The word of a discrete move, chosen by its support, is the one chosen by its lack of support. -/
theorem ite_supported (supported : Bool) :
    (if supported then 0 else 1 : Word) = if !supported then 1 else 0 := by
  cases supported <;> rfl

/-- Each command writes only the registers R31 lists for it. -/
theorem exec_effect {i : Instr} {s s' : State} (h : exec i s = .next s') : ExecEffect i s s' := by
  cases i with
  | nop =>
    rw [exec_nop] at h
    cases h; exact .writeStatus rfl rfl
  | pvnew r fl fr bl br =>
    rw [exec_pvnew] at h
    cases h; exact .writePv _ rfl (pvInRange_store_clampTo _ _) nofun rfl
  | pvset fl fr bl br =>
    rw [exec_pvset] at h
    cases h; exact .writePv _ rfl (pvInRange_store_clampTo _ _) (fun _ => rfl) rfl
  | pvscale factor =>
    rw [exec_pvscale] at h
    cases h; exact .writePv _ rfl (pvInRange_store_clampTo _ _) (fun _ => rfl) rfl
  | pvvalues =>
    rw [exec_pvvalues] at h
    cases h; exact .writeRes _ _ _ _ rfl rfl
  | move2w m =>
    rw [exec_move2w, ite_supported] at h
    have hv : WithinOne ⟨(diff m).1.1, (diff m).1.2, 0, 0⟩ :=
      ⟨(abs_diff_le_one m).1, (abs_diff_le_one m).2, by simp, by simp⟩
    cases h; exact .writePv _ rfl hv.pvInRange_store nofun rfl
  | move4d m =>
    rw [exec_move4d, ite_supported] at h
    have hv : WithinOne ⟨(diff m).1.1, (diff m).1.2, (diff m).1.1, (diff m).1.2⟩ :=
      ⟨(abs_diff_le_one m).1, (abs_diff_le_one m).2, (abs_diff_le_one m).1, (abs_diff_le_one m).2⟩
    cases h; exact .writePv _ rfl hv.pvInRange_store nofun rfl
  | move4m m =>
    rw [exec_move4m, ite_supported, mec_supported_eq m s.southHist false] at h
    cases h; exact .writePv _ rfl (withinOne_mec m _).pvInRange_store nofun rfl
  | mecanum p lat lon rot =>
    rw [exec_mecanum] at h
    cases h; exact .writePv _ rfl (withinOne_mecanumMix _ _ _).pvInRange_store nofun rfl
  | encdc src emit cha chb =>
    rw [exec_encdc] at h
    cases h; cases emit <;> exact .writePulses _ _ rfl
  | encang src kind emit cha =>
    rw [exec_encang] at h
    cases h; cases emit <;> exact .writePulses _ _ rfl
  | enccrs src emit cha slot =>
    rw [exec_enccrs] at h
    cases h; cases emit <;> exact .writePulses _ _ rfl
  | calwr slot points =>
    rw [exec_calwr] at h
    cases h; exact .writeCal _ _ rfl
  | calrd slot =>
    rw [exec_calrd] at h
    cases h; exact .writeRes _ _ _ _ rfl rfl

section Effect

variable {i : Instr} {s s' : State}

/-- R32, R48: no command writes the configuration input or the inputs to come. -/
theorem ExecEffect.inputs_eq (e : ExecEffect i s s') :
    s'.southHist = s.southHist ∧ s'.port = s.port := by
  cases e <;> exact ⟨rfl, rfl⟩

theorem ExecEffect.status_eq (e : ExecEffect i s s') : s'.status = statusReport i := by
  cases e <;> rfl

theorem ExecEffect.out_eq (e : ExecEffect i s s') :
    s'.out = s.out ++ emitted i s'.pulseA s'.pulseB := by
  cases e with
  | writePulses => rfl
  | writeCal _ _ calwr => simp [calwr, emitted]
  | writePv _ _ _ _ silent | writeRes _ _ _ _ _ silent | writeStatus _ silent =>
    simp [emitted_eq_nil_of_not_writesOut silent]

theorem ExecEffect.pv_eq (e : ExecEffect i s s') (hw : writesPv i.row = false) : s'.pv = s.pv := by
  cases e with
  | writePv _ writer => simp [hw] at writer
  | _ => rfl

theorem ExecEffect.range_eq (e : ExecEffect i s s') (hw : writesRange i.row = false) :
    s'.pv.range = s.pv.range := by
  cases e with
  | writePv _ _ _ keepsRange => exact keepsRange hw
  | _ => rfl

theorem ExecEffect.res_eq (e : ExecEffect i s s') (hw : writesRes i.row = false) :
    s'.res0 = s.res0 ∧ s'.res1 = s.res1 ∧ s'.res2 = s.res2 ∧ s'.res3 = s.res3 := by
  cases e with
  | writeRes _ _ _ _ writer => simp [hw] at writer
  | _ => exact ⟨rfl, rfl, rfl, rfl⟩

theorem ExecEffect.pulses_eq (e : ExecEffect i s s') (hw : writesPulses i.row = false) :
    s'.pulseA = s.pulseA ∧ s'.pulseB = s.pulseB := by
  cases e with
  | writePulses _ _ writer => simp [hw] at writer
  | _ => exact ⟨rfl, rfl⟩

theorem ExecEffect.cal_eq (e : ExecEffect i s s') (hw : i.row ≠ .calwr) : s'.cal = s.cal := by
  cases e with
  | writeCal _ _ calwr => exact absurd (calwr ▸ rfl) hw
  | _ => rfl

theorem ExecEffect.out_eq_of_not_writesOut (e : ExecEffect i s s') (hw : writesOut i = false) :
    s'.out = s.out := by
  rw [e.out_eq, emitted_eq_nil_of_not_writesOut hw, List.append_nil]

/-- R31: the writers of the Power Vector write no other register but `STATUS`. -/
theorem writesPv_exclusive {r : Row} (h : writesPv r = true) :
    writesRes r = false ∧ writesPulses r = false ∧ r ≠ .calwr ∧ r ≠ .nop := by
  cases r <;> revert h <;> decide

theorem ExecEffect.pvInRange_of_writesPv (e : ExecEffect i s s') (hw : writesPv i.row = true) :
    PvInRange s'.pv := by
  obtain ⟨hres, hpulses, hcal, hnop⟩ := writesPv_exclusive hw
  cases e with
  | writePv _ _ inRange => exact inRange
  | writeRes _ _ _ _ writer => simp [hres] at writer
  | writePulses _ _ writer => simp [hpulses] at writer
  | writeCal _ _ calwr => exact absurd (calwr ▸ rfl) hcal
  | writeStatus nop => exact absurd nop hnop

/-- A command keeps the invariant: it writes the Power Vector in range or leaves it as it was. -/
theorem ExecEffect.inv (e : ExecEffect i s s') (h : Inv s) : Inv s' where
  pv := by
    cases hw : writesPv i.row with
    | true => exact e.pvInRange_of_writesPv hw
    | false => exact e.pv_eq hw ▸ h.pv
  status := e.status_eq ▸ statusLegal_statusReport i
  out := e.out_eq ▸ List.forall_mem_append.mpr ⟨h.out, outLegal_emitted i _ _⟩

end Effect

/-! ## Transactions and steps -/

/-- A transaction, legal or not, leaves the configuration input and the inputs to come (R32, R48). -/
theorem perform_inputs_eq {t : Transaction} {s s' : State} (h : perform t s = .next s') :
    s'.southHist = s.southHist ∧ s'.port = s.port := by
  obtain ⟨i, -, hp⟩ | ⟨e, -, hp⟩ := perform_cases t s
  · exact (exec_effect (hp.symm.trans h)).inputs_eq
  · cases hp.symm.trans h
    exact ⟨rfl, rfl⟩

/-- No input of the port writes the configuration input, reset included (R48, R230). -/
theorem step_southHist {s s' : State} (h : step s = .next s') : s'.southHist = s.southHist := by
  obtain ⟨-, rfl⟩ | ⟨t, rest, -, hp⟩ | ⟨rest, -, rfl⟩ := step_cases h
  · rfl
  · exact (perform_inputs_eq hp).1
  · rfl

theorem inv_illegalCommand {s : State} (h : Inv s) : Inv s.illegalCommand where
  pv := h.pv
  status := .inr (.inr rfl)
  out := h.out

theorem inv_perform {t : Transaction} {s s' : State} (hs : Inv s) (h : perform t s = .next s') :
    Inv s' := by
  obtain ⟨i, -, hp⟩ | ⟨e, -, hp⟩ := perform_cases t s
  · exact (exec_effect (hp.symm.trans h)).inv hs
  · cases hp.symm.trans h
    exact inv_illegalCommand hs

theorem laneInRange_zero : LaneInRange .signed 0 := by decide

theorem inv_resetWith (southHist : Bool) (port : List HostInput) :
    Inv (State.resetWith southHist port) where
  pv := ⟨laneInRange_zero, laneInRange_zero, laneInRange_zero, laneInRange_zero⟩
  status := .inl rfl
  out := nofun

/-- The next step performs a transaction that was just presented, on the state it was presented to. -/
theorem step_present_command (s : State) (t : Transaction) :
    step (s.present (.command t)) = perform t s := rfl

/-- The bytes of a transaction decode as its words do, with no byte left (R62, R80). -/
theorem decodeBytes_toBytes (t : Transaction) : decodeBytes t.toBytes = (decode t).map (·, []) := by
  have h := ofBytes_toBytes t []
  rw [List.append_nil] at h
  simp only [decodeBytes, h]
  cases decode t <;> rfl

theorem decode_of_decodeTableWord {nbits w : Nat} {i : Instr} (h : decodeTableWord nbits w = some i) :
    decode (Transaction.ofTableWord nbits w) = .ok i := by
  rw [decodeTableWord, decodeBytes_toBytes] at h
  cases hd : decode (Transaction.ofTableWord nbits w) with
  | ok j => rw [hd] at h; cases h; rfl
  | error e => rw [hd] at h; cases h

/-! ## `SOUTH_HIST` (R48) -/

/-- Only the vector of South depends on `SOUTH_HIST`. -/
theorem mec_southHist_irrelevant {m : MoveArg} (h : m ≠ .named .south) (a b : Bool) :
    mec m a = mec m b := by
  cases m with
  | named m =>
    cases m with
    | south => exact absurd rfl h
    | _ => rfl
  | unknown code => rfl

theorem exec_southHist_irrelevant {i : Instr} {s s' : State} (h : Bool)
    (hi : i ≠ .move4m (.named .south)) (he : exec i s = .next s') :
    exec i { s with southHist := h } = .next { s' with southHist := h } := by
  cases i with
  | move4m m =>
    have hm : m ≠ .named .south := fun hm => hi (hm ▸ rfl)
    rw [exec_move4m] at he ⊢
    cases he
    rw [mec_southHist_irrelevant hm h s.southHist]
  | encdc src emit cha chb => rw [exec_encdc] at he ⊢; cases he; rfl
  | encang src kind emit cha => rw [exec_encang] at he ⊢; cases he; rfl
  | enccrs src emit cha slot => rw [exec_enccrs] at he ⊢; cases he; rfl
  | _ => cases he; rfl

/-- A whole value is stored as a shifted integer. -/
theorem tofx_intCast (n : ℤ) : tofx (n : ℚ) = BitVec.ofInt 32 (n * 65536) := by
  have h : (n : ℚ) * 65536 = ((n * 65536 : ℤ) : ℚ) := by push_cast; rfl
  rw [tofx, config_one_cast, h, rnd_intCast]

theorem tofx_zero : tofx 0 = unitWord 0 := by simpa [unitWord] using tofx_intCast 0

theorem tofx_one : tofx 1 = unitWord 1 := by simpa [unitWord] using tofx_intCast 1

theorem tofx_neg_one : tofx (-1) = unitWord (-1) := by simpa [unitWord] using tofx_intCast (-1)

/-- South's two vectors as words (R134). -/
theorem store_mecVector_south (southHist : Bool) :
    (mecVector southHist .south).store .signed =
      if southHist then unitPv 0 (-1) (-1) 0 else unitPv (-1) (-1) (-1) (-1) := by
  cases southHist <;> simp [mecVector, LaneValues.store, unitPv, tofx_zero, tofx_neg_one]

/-! ## The statements -/

/-- Settles O14. -/
theorem stepKeepsInv : Obligations.StepKeepsInv := by
  intro s s' hs h
  obtain ⟨-, rfl⟩ | ⟨t, rest, -, hp⟩ | ⟨rest, -, rfl⟩ := step_cases h
  · exact hs
  · have htaken : Inv { s with port := rest } := ⟨hs.pv, hs.status, hs.out⟩
    exact inv_perform htaken hp
  · exact inv_resetWith _ _

/-- Settles O15. -/
theorem everyPvWriteIsInRange : Obligations.EveryPvWriteIsInRange :=
  fun _ _ _ hw h => (exec_effect h).pvInRange_of_writesPv hw

/-- Settles O18: the bytes of a presented transaction decode to what its words decode to. -/
theorem presentedWordIsRunNext : Obligations.PresentedWordIsRunNext := by
  intro s nbits w i h
  rw [State.withFetchWord, step_present_command, perform, decode_of_decodeTableWord h]

/-- Settles O22. -/
theorem noCommandChangesTheNextInput : Obligations.NoCommandChangesTheNextInput := by
  intro s s' h
  obtain ⟨hport, rfl⟩ | ⟨t, rest, hport, hp⟩ | ⟨rest, hport, rfl⟩ := step_cases h
  · simp [hport]
  · rw [(perform_inputs_eq hp).2, hport]; rfl
  · rw [hport]; rfl

/-- Settles O23. -/
theorem southHistIsReadOnlyBySouth : Obligations.SouthHistIsReadOnlyBySouth := by
  refine ⟨fun _ _ => step_southHist, fun _ _ _ h => exec_southHist_irrelevant h, fun s h => ?_, rfl⟩
  rw [exec_move4m]
  simp only [mec, store_mecVector_south]
  rfl

/-- Settles O24: a decoded command is well-formed, so the model's tables report R203's codes. -/
theorem statusAfterEveryCommand : Obligations.StatusAfterEveryCommand := by
  intro t s s' h
  obtain ⟨i, hi, hp⟩ | ⟨e, he, hp⟩ := perform_cases t s
  · refine ⟨fun e he => by simp [hi] at he, fun j hj => ?_⟩
    cases hi.symm.trans hj
    rw [(exec_effect (hp.symm.trans h)).status_eq, statusReport,
      unsupported_eq_reportsUnsupported (decode_wellFormed hi)]
  · refine ⟨fun _ _ => ?_, fun i hi => by simp [he] at hi⟩
    cases hp.symm.trans h
    rfl

/-- Settles O25. -/
theorem registersAreWrittenOnlyByTheirCommands :
    Obligations.RegistersAreWrittenOnlyByTheirCommands := by
  intro i s s' h
  have e := exec_effect h
  exact ⟨e.pv_eq, e.range_eq, e.res_eq, e.pulses_eq, e.out_eq_of_not_writesOut, e.cal_eq, e.inputs_eq⟩

/-- Settles O27. -/
theorem outGrowsByTheEmittedCounts : Obligations.OutGrowsByTheEmittedCounts :=
  fun _ _ _ h => (exec_effect h).out_eq

/-- Settles O11: `State.reset` is written with R49's values. -/
theorem resetValues : Obligations.ResetValues := by
  refine ⟨rfl, rfl, rfl, rfl, rfl, rfl, rfl, rfl, fun slot => ?_, rfl, rfl⟩
  simp [State.calSlot, State.reset, State.resetWith, Config.CRS_DEFAULT]

/-- Settles O13. -/
theorem resetHasInv : Obligations.ResetHasInv := inv_resetWith _ _

/-- A count read on the host's bus keeps its value, at most `PMAX` (R39, R63). -/
theorem toNat_setWidth_pulseCount (n : PulseCount) :
    (n.setWidth 32).toNat = n.toNat ∧ (n.setWidth 32).toNat ≤ 4095 := by
  have heq : (n.setWidth 32).toNat = n.toNat := BitVec.toNat_setWidth_of_le (by decide)
  have hlt := n.isLt
  omega

/-- Settles O52. -/
theorem hostReadsPulsesZeroExtended : Obligations.HostReadsPulsesZeroExtended := by
  intro s
  obtain ⟨hA, hA'⟩ := toNat_setWidth_pulseCount s.pulseA
  obtain ⟨hB, hB'⟩ := toNat_setWidth_pulseCount s.pulseB
  exact ⟨hA, hB, hA', hB'⟩

end Sys2Proof.Proofs.StateFamily

/-! # The memory family: command lists as bytes, as runs and as writes to the driver

The statements about the lists that cross the block's boundary (spec/20_memory.md): the bytes a host
serialises (R62, R64), the order transactions are performed in (R66, R67, R70), and the order of the pulse
writes handed on (R71). -/

namespace Sys2Proof.Proofs.MemoryFamily

open Sys2Proof Sys2Proof.Machine Sys2Proof.Safety Sys2Proof.Proofs.StateFamily

/-! ## The row of a command word (R96) -/

/-- `rows_distinguished` for rows in either order of the table. -/
theorem rows_distinguished_of_ne {r q : Row} (h : r ≠ q) :
    (r.value ^^^ q.value) &&& (r.mask &&& q.mask) ≠ 0 := by
  have hsymm : Std.Symm (fun r q : Row => (r.value ^^^ q.value) &&& (r.mask &&& q.mask) ≠ 0) :=
    ⟨fun a b hab => by rwa [BitVec.xor_comm, BitVec.and_comm b.mask]⟩
  exact rows_distinguished.forall (row_mem_all r) (row_mem_all q) h

/-- A word that matches two rows agrees with the fixed bits of both, so no bit tells the rows apart. -/
theorem matches_unique {r q : Row} {cmd : Word} (hr : r.matches cmd = true) (hq : q.matches cmd = true) :
    r = q := by
  by_contra hne
  apply rows_distinguished_of_ne hne
  have hr' : cmd &&& r.mask = r.value := by simpa [Row.matches] using hr
  have hq' : cmd &&& q.mask = q.value := by simpa [Row.matches] using hq
  rw [← hr', ← hq']
  apply BitVec.eq_of_getLsbD_eq
  intro i _
  simp only [BitVec.getLsbD_and, BitVec.getLsbD_xor]
  cases cmd.getLsbD i <;> cases r.mask.getLsbD i <;> simp

/-- A word that matches a row decodes by that row. -/
theorem decode_of_matches {r : Row} {t : Transaction} (h : r.matches t.cmd = true) :
    decode t = .ok (r.instr t) := by
  obtain ⟨q, -, hq, hd⟩ | ⟨hnone, -⟩ := decode_cases t
  · rw [hd, matches_unique h hq]
  · exact absurd h (List.find?_eq_none.mp hnone r (row_mem_all r))

/-- An instruction's command word matches the instruction's own row. -/
theorem row_matches_encode : ∀ i : Instr, i.row.matches (encode i).cmd = true
  | .nop => Laws.EncodeRow.nop
  | .pvnew r fl fr bl br => Laws.EncodeRow.pvnew r fl fr bl br
  | .pvset fl fr bl br => Laws.EncodeRow.pvset fl fr bl br
  | .pvscale factor => Laws.EncodeRow.pvscale factor
  | .pvvalues => Laws.EncodeRow.pvvalues
  | .move2w m => Laws.EncodeRow.move2w m
  | .move4d m => Laws.EncodeRow.move4d m
  | .move4m m => Laws.EncodeRow.move4m m
  | .mecanum p lat lon rot => Laws.EncodeRow.mecanum p lat lon rot
  | .encdc src emit cha chb => Laws.EncodeRow.encdc src emit cha chb
  | .encang src kind emit cha => Laws.EncodeRow.encang src kind emit cha
  | .enccrs src emit cha slot => Laws.EncodeRow.enccrs src emit cha slot
  | .calwr slot points => Laws.EncodeRow.calwr slot points
  | .calrd slot => Laws.EncodeRow.calrd slot

/-! ## Fields read back from their places (R82) -/

theorem bits_place_same {n lo : Nat} (b : BitVec n) (h : lo + n ≤ 32) : bits (place b lo) lo n = b := by
  apply BitVec.eq_of_getLsbD_eq
  intro i hi
  simp [bits, place, hi, show lo + i < 32 by omega]

/-- A field leaves no bit in a place that lies wholly below or above it. -/
theorem bits_place_disjoint {n lo m lo' : Nat} (b : BitVec n) (h : lo' + m ≤ lo ∨ lo + n ≤ lo') :
    bits (place b lo) lo' m = 0 := by
  apply BitVec.eq_of_getLsbD_eq
  intro i hi
  simp only [bits, place, BitVec.getLsbD_extractLsb', BitVec.getLsbD_shiftLeft, BitVec.getLsbD_setWidth]
  obtain below | above := h
  · simp [show lo' + i < lo by omega]
  · simp [BitVec.getLsbD_of_ge b (lo' + i - lo) (by omega)]

/-- A field is read from the placed fields alone where the row's fixed bits are 0. -/
theorem bits_encodeCmd {i : Instr} {lo n : Nat} {b : BitVec n} (hfree : bits i.row.value lo n = 0#n)
    (hfield : bits i.fieldBits lo n = b) : bits (encodeCmd i) lo n = b := by
  rw [encodeCmd, bits_or, hfree, BitVec.zero_or, hfield]

/-- R93: the source is read back from its select bit, its lane bits and `OPA`. -/
theorem ofTransaction_eq {t : Transaction} {src : Source} (hlane : bits t.cmd 8 2 = src.laneBits)
    (hs : bits t.cmd 10 1 = src.sBit) (hopa : t.opa = src.opa) : Source.ofTransaction t = src := by
  rw [Source.ofTransaction, hlane, hs, hopa]
  cases src <;> simp [Source.sBit, Source.laneBits, Source.opa]

theorem emitBit_eq {cmd : Word} {emit : Bool} (h : bits cmd 11 1 = BitVec.ofBool emit) :
    emitBit cmd = emit := by
  rw [emitBit, h]
  cases emit <;> rfl

theorem moveArg_eq {cmd : Word} {m : MoveArg} (hm : m.wellFormed = true)
    (h : bits cmd 0 4 = m.toBits) : MoveArg.ofBits (bits cmd 0 4) = m := by
  rw [h, moveArg_ofBits_toBits hm]

theorem servoKind_eq {cmd : Word} {kind : ServoKind} (h : bits cmd 12 1 = kind.toBit) :
    ServoKind.ofBit (bits cmd 12 1) = kind := by
  rw [h, servoKind_ofBit_toBit]

theorem slotField_eq {cmd : Word} {slot : Slot} (h : bits cmd 16 4 = slotBits slot) :
    slotField cmd = slot := by
  rw [slotField, h]
  rfl

/-- Every field and every operand word is read back where the formats place it (R83 to R95). -/
theorem instr_encode {i : Instr} (h : i.wellFormed = true) : i.row.instr (encode i) = i := by
  cases i with
  | nop | pvset | pvscale | pvvalues => rfl
  | pvnew r fl fr bl br =>
    have hr : bits (encodeCmd (.pvnew r fl fr bl br)) 0 1 = r.toBit :=
      bits_encodeCmd (by rw [Instr.row]; decide) (bits_place_same _ (by decide))
    simp [Instr.row, Row.instr, encode, hr]
  | move2w m | move4d m | move4m m =>
    refine congrArg _ (moveArg_eq h (bits_encodeCmd ?_ ?_))
    · rw [Instr.row]; decide
    · exact bits_place_same _ (by decide)
  | mecanum p lat lon rot =>
    have hp : bits (encodeCmd (.mecanum p lat lon rot)) 0 1 = p.toBit :=
      bits_encodeCmd (by rw [Instr.row]; decide) (bits_place_same _ (by decide))
    simp [Instr.row, Row.instr, encode, hp]
  | encdc src emit cha chb =>
    simp only [Instr.row, Row.instr, Instr.encdc.injEq]
    refine ⟨ofTransaction_eq ?_ ?_ rfl, emitBit_eq ?_, ?_, ?_⟩
    all_goals
      refine bits_encodeCmd (by rw [Instr.row]; decide) ?_
      simp (disch := omega) [Instr.fieldBits, bits_or, bits_place_same, bits_place_disjoint]
  | encang src kind emit cha =>
    simp only [Instr.row, Row.instr, Instr.encang.injEq]
    refine ⟨ofTransaction_eq ?_ ?_ rfl, servoKind_eq ?_, emitBit_eq ?_, ?_⟩
    all_goals
      refine bits_encodeCmd (by rw [Instr.row]; decide) ?_
      simp (disch := omega) [Instr.fieldBits, bits_or, bits_place_same, bits_place_disjoint]
  | enccrs src emit cha slot =>
    simp only [Instr.row, Row.instr, Instr.enccrs.injEq]
    refine ⟨ofTransaction_eq ?_ ?_ rfl, emitBit_eq ?_, ?_, slotField_eq ?_⟩
    all_goals
      refine bits_encodeCmd (by rw [Instr.row]; decide) ?_
      simp (disch := omega) [Instr.fieldBits, bits_or, bits_place_same, bits_place_disjoint]
  | calwr slot points =>
    have hslot : slotField (encodeCmd (.calwr slot points)) = slot :=
      slotField_eq (bits_encodeCmd (by rw [Instr.row]; decide) (bits_place_same _ (by decide)))
    simp only [Instr.row, Row.instr, encode, hslot, unpack_packPoints]
  | calrd slot =>
    have hslot : slotField (encodeCmd (.calrd slot)) = slot :=
      slotField_eq (bits_encodeCmd (by rw [Instr.row]; decide) (bits_place_same _ (by decide)))
    simp only [Instr.row, Row.instr, encode, hslot]

/-- The decoder undoes the encoder on the terms that some word encodes (R82 to R96). -/
theorem decode_encode {i : Instr} (h : i.wellFormed = true) : decode (encode i) = .ok i := by
  rw [decode_of_matches (row_matches_encode i), instr_encode h]

/-! ## Partial transactions (R64) -/

/-- Everything taking a word off a byte list can answer. -/
theorem takeWord_cases (bs : List Byte) :
    (bs.length < 4 ∧ takeWord bs = .error .truncated) ∨
      (∃ w rest, bs.length = rest.length + 4 ∧ takeWord bs = .ok (w, rest)) := by
  fun_cases takeWord bs with
  | case1 b0 b1 b2 b3 rest => exact .inr ⟨_, rest, rfl, rfl⟩
  | case2 bs hshort =>
    refine .inl ⟨?_, rfl⟩
    match bs with
    | [] | [_] | [_, _] | [_, _, _] => simp
    | b0 :: b1 :: b2 :: b3 :: rest => exact absurd rfl (hshort b0 b1 b2 b3 rest)

theorem takeWord_error {bs : List Byte} {e : Reject} (h : takeWord bs = .error e) : e = .truncated := by
  obtain ⟨-, h'⟩ | ⟨w, rest, -, h'⟩ := takeWord_cases bs
  · exact (Except.error.inj (h'.symm.trans h)).symm
  · cases h'.symm.trans h

theorem takeWord_length {bs rest : List Byte} {w : Word} (h : takeWord bs = .ok (w, rest)) :
    bs.length = rest.length + 4 := by
  obtain ⟨-, h'⟩ | ⟨w', rest', hlen, h'⟩ := takeWord_cases bs
  · cases h'.symm.trans h
  · cases h'.symm.trans h
    exact hlen

/-- Each of the five words takes four bytes, and the first that is not there is reported. -/
theorem ofBytes_of_length_lt {bs : List Byte} (h : bs.length < 20) :
    Transaction.ofBytes bs = .error .truncated := by
  fun_cases Transaction.ofBytes bs
  case case6 cmd bs1 h1 opa bs2 h2 opb bs3 h3 opc bs4 h4 opd bs5 h5 =>
    have l1 := takeWord_length h1
    have l2 := takeWord_length h2
    have l3 := takeWord_length h3
    have l4 := takeWord_length h4
    have l5 := takeWord_length h5
    omega
  all_goals exact congrArg Except.error (takeWord_error ‹takeWord _ = .error _›)

/-! ## Runs (R66, R70) -/

/-- R201: every command answers a next state. -/
theorem exec_total (i : Instr) (s : State) : ∃ s' : State, exec i s = .next s' := by
  cases i <;> exact ⟨_, rfl⟩

/-- R97, R201: no transaction stops the block, legal or not. -/
theorem perform_total (t : Transaction) (s : State) : ∃ s' : State, perform t s = .next s' := by
  obtain ⟨i, -, hp⟩ | ⟨e, -, hp⟩ := perform_cases t s
  · rw [hp]
    exact exec_total i s
  · exact ⟨_, hp⟩

/-- So `Safety.after` never takes its second arm. -/
theorem perform_eq_after (t : Transaction) (s : State) : perform t s = .next (after s t) := by
  obtain ⟨s', hs'⟩ := perform_total t s
  rw [after, hs']

/-- No command reads the inputs to come (R32). -/
theorem exec_port_irrelevant {i : Instr} {s s' : State} (port : List HostInput)
    (h : exec i s = .next s') : exec i { s with port := port } = .next { s' with port := port } := by
  cases i with
  | encdc src emit cha chb => rw [exec_encdc] at h ⊢; cases h; rfl
  | encang src kind emit cha => rw [exec_encang] at h ⊢; cases h; rfl
  | enccrs src emit cha slot => rw [exec_enccrs] at h ⊢; cases h; rfl
  | _ => cases h; rfl

/-- Nor does an illegal word's effect depend on them. -/
theorem perform_port_irrelevant {t : Transaction} {s s' : State} (port : List HostInput)
    (h : perform t s = .next s') : perform t { s with port := port } = .next { s' with port := port } := by
  unfold perform at h ⊢
  cases hd : decode t with
  | ok i =>
    rw [hd] at h
    exact exec_port_irrelevant port h
  | error e =>
    rw [hd] at h
    cases h
    rfl

/-- A step from a state whose next input is a command performs it without that input. -/
theorem step_command {s : State} {t : Transaction} {rest : List HostInput}
    (h : s.port = .command t :: rest) : step s = perform t { s with port := rest } := by
  have hs : State.present { s with port := rest } (.command t) = s := by
    rw [State.present, ← h]
  rw [← step_present_command, hs]

/-- One step of a run over presented commands. -/
theorem step_port_cons (t : Transaction) (port : List HostInput) (s : State) :
    step { s with port := .command t :: port } = .next { after s t with port := port } := by
  calc step { s with port := .command t :: port }
      = perform t { s with port := port } := step_command rfl
    _ = .next { after s t with port := port } := perform_port_irrelevant port (perform_eq_after t s)

/-! ## Idempotence (R67) -/

/-- R150: an encoder's input is an operand or a lane of the Power Vector. -/
theorem srcval_eq_of_pv_eq (src : Source) {s s' : State} (h : s'.pv = s.pv) :
    srcval src s' = srcval src s := by
  cases src with
  | operand lane v => rfl
  | lane l => rw [srcval, srcval, h]

theorem calSlot_eq_of_cal_eq {s s' : State} (h : s'.cal = s.cal) (slot : Slot) :
    s'.calSlot slot = s.calSlot slot := by
  rw [State.calSlot, State.calSlot, h]

/-! ## The driver's view (R71, R236) -/

/-- The write a driver obeys last is in effect on its channel. -/
theorem inEffect_append_same (out : List PulseWrite) (w : PulseWrite) :
    inEffect (out ++ [w]) w.ch = some w := by
  simp [inEffect]

/-- A later write to another channel leaves a channel as it was. -/
theorem inEffect_append_other (out : List PulseWrite) {w : PulseWrite} {ch : Channel} (h : w.ch ≠ ch) :
    inEffect (out ++ [w]) ch = inEffect out ch := by
  simp [inEffect, h]

/-! ## The statements -/

/-- Settles O2: the bytes give the transaction back, and the transaction its instruction. -/
theorem decodeBytesOfEncodeBytes : Obligations.DecodeBytesOfEncodeBytes := by
  intro i rest h
  rw [encodeBytes, decodeBytes, ofBytes_toBytes]
  simp only [decode_encode h]

/-- Settles O7: the five words of a transaction take twenty bytes. -/
theorem partialTransactionIsNoCommand : Obligations.PartialTransactionIsNoCommand := by
  intro bs h
  rw [decodeBytes, ofBytes_of_length_lt h]

/-- Settles O20, by induction on the list: each step takes one transaction off the port. -/
theorem runIsTheLeftFold : Obligations.RunIsTheLeftFold := by
  intro ts rest
  induction ts with
  | nil => exact fun s => core_run_zero _
  | cons t ts ih =>
    intro s
    rw [List.length_cons, List.map_cons, List.cons_append, core_run_succ _ (step_port_cons t _ s), ih]
    rfl

/-- Settles O28: a listed command writes values computed from registers it leaves alone. -/
theorem listedCommandsAreIdempotent : Obligations.ListedCommandsAreIdempotent := by
  intro i s s' hi h
  cases i with
  | pvscale factor => cases hi
  | encdc src emit cha chb | encang src kind emit cha | enccrs src emit cha slot =>
    obtain rfl : emit = false := by simpa [idempotent] using hi
    have hv := srcval_eq_of_pv_eq src ((exec_effect h).pv_eq rfl)
    have hcal := calSlot_eq_of_cal_eq ((exec_effect h).cal_eq nofun)
    simp only [exec_encdc, exec_encang, exec_enccrs, hv, hcal] at h ⊢
    cases h
    simp
  | calwr slot points =>
    rw [exec_calwr] at h ⊢
    cases h
    rw [Vector.set_set]
  | _ => cases h; rfl

/-- Settles O51: ENCDC appends the forward write and then the reverse write. -/
theorem laterWriteIsInEffect : Obligations.LaterWriteIsInEffect := by
  intro src cha chb s s' h
  have hout : s'.out = s.out ++ [⟨cha, 0, s'.pulseA⟩] ++ [⟨chb, 0, s'.pulseB⟩] := by
    rw [(exec_effect h).out_eq, List.append_assoc]
    rfl
  rw [hout]
  refine ⟨inEffect_append_same _ ⟨chb, 0, s'.pulseB⟩, fun hne => ?_⟩
  rw [inEffect_append_other _ hne.symm]
  exact inEffect_append_same _ ⟨cha, 0, s'.pulseA⟩

/-- Settles O17: the step is `perform` on the state without the input, whose two arms are the clauses. -/
theorem stepRunsDecodedInstruction : Obligations.StepRunsDecodedInstruction := by
  intro s t rest hport
  rw [step_command hport, perform]
  refine ⟨fun i hi => ?_, fun e he => ?_⟩
  · rw [hi]
  · rw [he]
    rfl

end Sys2Proof.Proofs.MemoryFamily

/-! # The encoding family: the opcode table, the decoder and the assembler's pseudo-instructions

The statements about command words (spec/30_encoding.md): which row a word is (R96, R98), that decoding and
encoding are inverse (R82 to R95), which bits of a transaction have an effect (R80, R93, R97, R151), and the
expansions of R101. -/

namespace Sys2Proof.Proofs.EncodingFamily

open Sys2Proof Sys2Proof.Machine Sys2Proof.Safety Sys2Proof.Proofs.StateFamily
  Sys2Proof.Proofs.MemoryFamily

/-! ## The row decoder (R96) -/

theorem matches_iff (r : Row) (cmd : Word) : r.matches cmd = true ↔ cmd &&& r.mask = r.value := by
  simp [Row.matches]

theorem decodeRow_eq_none_iff (cmd : Word) :
    decodeRow cmd = none ↔ ∀ r : Row, cmd &&& r.mask ≠ r.value := by
  simp only [decodeRow, List.find?_eq_none, matches_iff]
  exact ⟨fun h r => h r (row_mem_all r), fun h r _ => h r⟩

theorem decodeRow_eq_some_iff (cmd : Word) (r : Row) :
    decodeRow cmd = some r ↔ cmd &&& r.mask = r.value := by
  rw [← matches_iff]
  have found (q : Row) (hq : decodeRow cmd = some q) : q.matches cmd = true :=
    List.find?_some (p := (Row.matches · cmd)) hq
  refine ⟨found r, fun hr => ?_⟩
  cases hq : decodeRow cmd with
  | none => exact absurd ((matches_iff r cmd).mp hr) ((decodeRow_eq_none_iff cmd).mp hq r)
  | some q => rw [matches_unique hr (found q hq)]

theorem decode_of_decodeRow_some {t : Transaction} {r : Row} (h : decodeRow t.cmd = some r) :
    decode t = .ok (r.instr t) := by
  rw [decode, h]

theorem decode_of_decodeRow_none {t : Transaction} (h : decodeRow t.cmd = none) :
    decode t = .error (rejectOf t.cmd) := by
  rw [decode, h]

theorem row_instr (r : Row) (t : Transaction) : (r.instr t).row = r := by
  cases r <;> rfl

/-- A row's instruction is what a word decodes to only if the word is that row's. -/
theorem decodeRow_of_decode {t : Transaction} {i : Instr} (h : decode t = .ok i) :
    decodeRow t.cmd = some i.row := by
  obtain ⟨r, hr, -, hd⟩ | ⟨-, he⟩ := decode_cases t
  · cases hd.symm.trans h
    rw [hr, row_instr]
  · cases he.symm.trans h

/-! ## Masks and fields (R9, R82) -/

/-- The word with a 1 in each bit of the field at `lo` of width `n`. -/
def fieldMask (lo n : Nat) : Word := (BitVec.allOnes n).setWidth 32 <<< lo

theorem place_bits_eq_and_fieldMask (cmd : Word) (lo n : Nat) :
    place (bits cmd lo n) lo = cmd &&& fieldMask lo n := place_bits cmd lo n

/-- Two words have the same field when they agree under the field's mask. -/
theorem bits_eq_iff_and_fieldMask {lo n : Nat} (h : lo + n ≤ 32) (v w : Word) :
    bits v lo n = bits w lo n ↔ v &&& fieldMask lo n = w &&& fieldMask lo n := by
  rw [← place_bits_eq_and_fieldMask, ← place_bits_eq_and_fieldMask]
  refine ⟨fun heq => by rw [heq], fun heq => ?_⟩
  rw [← bits_place_same (bits v lo n) h, heq, bits_place_same _ h]

/-- The lowest bits of a word are 0 under a mask when the word is, under the same mask. -/
theorem bits_and_eq_zero_iff {n : Nat} (h : n ≤ 32) (w : Word) (z : BitVec n) :
    bits w 0 n &&& z = 0 ↔ w &&& z.setWidth 32 = 0 := by
  have hand : w &&& z.setWidth 32 = (bits w 0 n &&& z).setWidth 32 := by
    apply BitVec.eq_of_getLsbD_eq
    intro i hi
    by_cases hn : i < n
    · simp [bits, hi, hn]
    · simp [bits, hi, hn, BitVec.getLsbD_of_ge z i (by omega)]
  rw [hand]
  refine ⟨fun h0 => by simp [h0], fun h0 => ?_⟩
  have hback := congrArg (BitVec.setWidth n) h0
  rwa [BitVec.setWidth_setWidth_of_le _ h, BitVec.setWidth_eq, BitVec.ofNat_eq_ofNat,
    BitVec.setWidth_zero] at hback

theorem or_and_self_left (a b : Word) : (a ||| b) &&& a = a := by
  apply BitVec.eq_of_getLsbD_eq
  intro i _
  simp only [BitVec.getLsbD_and, BitVec.getLsbD_or]
  cases a.getLsbD i <;> simp

/-- To agree under a mask is to agree under each part of it. -/
theorem and_eq_of_submask {v w m a : Word} (ha : m &&& a = a) (h : v &&& m = w &&& m) :
    v &&& a = w &&& a := by
  rw [← ha, ← BitVec.and_assoc, h, BitVec.and_assoc]

/-- To agree under two masks put together is to agree under both. -/
theorem and_or_eq_iff (v w a b : Word) :
    v &&& (a ||| b) = w &&& (a ||| b) ↔ v &&& a = w &&& a ∧ v &&& b = w &&& b := by
  refine ⟨fun h => ⟨?_, ?_⟩, fun ⟨ha, hb⟩ => ?_⟩
  · exact and_eq_of_submask (or_and_self_left a b) h
  · exact and_eq_of_submask (by rw [BitVec.or_comm, or_and_self_left]) h
  · rw [BitVec.and_or_distrib_left, ha, hb, ← BitVec.and_or_distrib_left]

/-! ## The words of a row, field by field (R82, R92, R98) -/

theorem value_and_mask (r : Row) : r.value &&& r.mask = r.value := by
  cases r <;> decide

/-- The mask of a row is its opcode field, in format MV its layout field, and the bits its format shows
as 0. -/
theorem mask_eq_fields (r : Row) :
    r.mask = fieldMask 24 8 ||| (if bits r.value 24 8 = 0x10 then fieldMask 4 2 else 0) |||
      (formatZeros (bits r.value 24 8)).setWidth 32 := by
  cases r <;> decide

theorem value_and_formatZeros (r : Row) :
    r.value &&& (formatZeros (bits r.value 24 8)).setWidth 32 = 0 := by
  cases r <;> decide

/-- Under the layout's mask, where a format has a layout. -/
theorem and_ite_fieldMask_iff (p : Prop) [Decidable p] {lo n : Nat} (h : lo + n ≤ 32) (v w : Word) :
    v &&& (if p then fieldMask lo n else 0) = w &&& (if p then fieldMask lo n else 0) ↔
      (p → bits v lo n = bits w lo n) := by
  by_cases hp : p
  · simp only [hp, if_true, forall_const, bits_eq_iff_and_fieldMask h]
  · simp [hp]

/-- A word is a row's when it has the row's opcode, in format MV the row's layout, and no 1 where the
format shows 0. -/
theorem and_mask_eq_value_iff (cmd : Word) (r : Row) :
    cmd &&& r.mask = r.value ↔
      bits cmd 24 8 = bits r.value 24 8 ∧
        (bits r.value 24 8 = 0x10 → bits cmd 4 2 = bits r.value 4 2) ∧
        bits cmd 0 24 &&& formatZeros (bits r.value 24 8) = 0 := by
  calc cmd &&& r.mask = r.value
      ↔ cmd &&& r.mask = r.value &&& r.mask := by rw [value_and_mask]
    _ ↔ _ := by
      rw [mask_eq_fields, and_or_eq_iff, and_or_eq_iff, and_ite_fieldMask_iff _ (by decide),
        ← bits_eq_iff_and_fieldMask (by decide), value_and_formatZeros,
        ← bits_and_eq_zero_iff (by decide), and_assoc]

theorem opcode_mem_opcodes (r : Row) : bits r.value 24 8 ∈ opcodes := by
  cases r <;> decide

/-- R92: the layouts of the MOVE rows are 0, 1 and 2. -/
theorem layout_ne_three (r : Row) : bits r.value 4 2 ≠ 3 := by
  cases r <;> decide

/-- R99: each opcode has a row, and opcode 0x10 one for each layout but 3. -/
theorem exists_row_of_opcode : ∀ op ∈ opcodes, ∀ layout : BitVec 2, ¬(op = 0x10 ∧ layout = 3) →
    ∃ r ∈ Row.all, op = bits r.value 24 8 ∧ (bits r.value 24 8 = 0x10 → layout = bits r.value 4 2) := by
  decide

/-! ## The fields of a decoded word (R82 to R93) -/

theorem ofBool_emitBit (cmd : Word) : BitVec.ofBool (emitBit cmd) = bits cmd 11 1 := by
  have h : ∀ b : BitVec 1, BitVec.ofBool (b == 1) = b := by decide
  exact h _

theorem slotBits_slotField (cmd : Word) : slotBits (slotField cmd) = bits cmd 16 4 := rfl

/-- Decoding and placing the fields again gives the bits outside the row's mask. -/
theorem fieldBits_instr (r : Row) (t : Transaction) :
    (r.instr t).fieldBits = t.cmd &&& ~~~r.mask := by
  cases r <;>
    simp only [Row.instr, Instr.fieldBits, pvRange_toBit_ofBit, inputScale_toBit_ofBit,
      servoKind_toBit_ofBit, moveArg_toBits_ofBits, laneBits_ofTransaction, sBit_ofTransaction,
      ofBool_emitBit, slotBits_slotField, place_bits_eq_and_fieldMask, ← BitVec.and_or_distrib_left]
  case nop | pvset | pvscale | pvvalues => exact BitVec.and_zero.symm
  all_goals exact congrArg (t.cmd &&& ·) (by decide)

theorem and_or_and_not (v m : Word) : v &&& m ||| v &&& ~~~m = v := by
  rw [← BitVec.and_or_distrib_left, BitVec.or_not_self, BitVec.and_allOnes]

theorem encodeCmd_instr {r : Row} {t : Transaction} (h : t.cmd &&& r.mask = r.value) :
    encodeCmd (r.instr t) = t.cmd := by
  rw [encodeCmd, row_instr, fieldBits_instr, ← h, and_or_and_not]

theorem encode_cmd (i : Instr) : (encode i).cmd = encodeCmd i := by
  cases i <;> rfl

/-! ## What a transaction's effect depends on (R80, R93, R97) -/

theorem perform_eq_of_decode_eq {t u : Transaction} (h : decode t = decode u) (s : State) :
    perform t s = perform u s := by
  rw [perform, perform, h]

/-- R97: an illegal word's effect, whatever the operand words. -/
theorem perform_of_decodeRow_none {t : Transaction} (h : decodeRow t.cmd = none) (s : State) :
    perform t s = .next { s with status := 0x00000002 } := by
  rw [perform, decode_of_decodeRow_none h]
  exact congrArg _ (illegalCommand_eq s)

theorem ofTransaction_congr {t u : Transaction} (hcmd : t.cmd = u.cmd) (hopa : t.opa = u.opa) :
    Source.ofTransaction t = Source.ofTransaction u := by
  rw [Source.ofTransaction, Source.ofTransaction, hcmd, hopa]

/-- R93, R150: with `S = 1` the source is a lane, and `OPA` is not read. -/
theorem ofTransaction_lane {t : Transaction} (h : bits t.cmd 10 1 = 1) :
    Source.ofTransaction t = .lane (.ofBits (bits t.cmd 8 2)) := by
  rw [Source.ofTransaction, if_pos h]

/-- R80: a row's instruction is made of the command word and the operand words the row reads. -/
theorem instr_eq_of_agreeOn {r : Row} {t u : Transaction} (h : agreeOn (operandsRead r) t u) :
    r.instr t = r.instr u := by
  obtain ⟨hcmd, hopa, hopb, hopc, hopd⟩ := h
  cases r with
  | nop | pvvalues => rfl
  | move2w | move4d | move4m | calrd => simp only [Row.instr, hcmd]
  | pvscale => simp only [Row.instr, hopa (by decide)]
  | encdc | encang | enccrs =>
    simp only [Row.instr, ofTransaction_congr hcmd (hopa (by decide)), hcmd]
  | mecanum | calwr =>
    simp only [Row.instr, hcmd, hopa (by decide), hopb (by decide), hopc (by decide)]
  | pvnew | pvset =>
    simp only [Row.instr, hcmd, hopa (by decide), hopb (by decide), hopc (by decide),
      hopd (by decide)]

/-- R93: an encoder row's instruction with `S = 1` is made of the command word alone. -/
theorem instr_eq_of_lane_source {r : Row} {t u : Transaction}
    (hr : r ∈ [Row.encdc, Row.encang, Row.enccrs]) (hs : bits t.cmd 10 1 = 1) (hcmd : t.cmd = u.cmd) :
    r.instr t = r.instr u := by
  have hsrc : Source.ofTransaction t = Source.ofTransaction u := by
    rw [ofTransaction_lane hs, ofTransaction_lane (hcmd ▸ hs), hcmd]
  simp only [List.mem_cons, List.not_mem_nil, or_false] at hr
  obtain rfl | rfl | rfl := hr <;> simp only [Row.instr, hsrc, hcmd]

/-! ## Words presented by their bits (R99) -/

/-- The bytes of a table word are one whole transaction, so the word is read as its transaction decodes. -/
theorem decodeTableWord_eq (nbits w : Nat) :
    decodeTableWord nbits w = (decode (Transaction.ofTableWord nbits w)).toOption := by
  rw [decodeTableWord, decodeBytes_toBytes]
  cases decode (Transaction.ofTableWord nbits w) <;> rfl

/-! ## Operands of the pseudo-instructions (R100, R101) -/

theorem parseValue_zero : parseValue ['0'] = .ok 0 := by
  have hparse : parseDecimal ['0'] = some ((0 : Nat) : ℚ) := rfl
  have hrnd : rnd 0 = 0 := by simpa using rnd_intCast 0
  simp [parseValue, hparse, hrnd]

theorem parseMove_stop : parseMove "STOP".toList = .ok (.named .stop) := by decide

theorem parseLane_laneName (l : Lane) : parseLane (laneName l).toList = .ok l := by
  cases l <;> decide

theorem parseSource_laneName (l : Lane) : parseSource (laneName l).toList = .ok (.lane l) := by
  cases l <;> decide

/-- R7, R101: the five texts of `CALDEF` are the points of `CRS_DEFAULT`. -/
theorem parseField_crsDefault :
    parseField 12 "85".toList = .ok Config.CRS_DEFAULT.maxb ∧
      parseField 12 "285".toList = .ok Config.CRS_DEFAULT.minb ∧
      parseField 12 "310".toList = .ok Config.CRS_DEFAULT.stop ∧
      parseField 12 "335".toList = .ok Config.CRS_DEFAULT.minf ∧
      parseField 12 "535".toList = .ok Config.CRS_DEFAULT.maxf := by
  decide

/-! ## The statements -/

/-- Settles O1: every field and operand word is read back where the encoder places it. -/
theorem decodeEncodeRoundTrip : Obligations.DecodeEncodeRoundTrip := fun _ h => decode_encode h

/-- Settles O3: the row's fixed bits and the decoded fields are all the bits of the word. -/
theorem decodedWordIsKept : Obligations.DecodedWordIsKept := by
  intro t i h
  refine ⟨decode_wellFormed h, ?_⟩
  obtain ⟨r, hrow, -, hd⟩ | ⟨-, he⟩ := decode_cases t
  · cases hd.symm.trans h
    rw [encode_cmd, encodeCmd_instr ((decodeRow_eq_some_iff _ _).mp hrow)]
  · cases he.symm.trans h

/-- Settles O4: two rows differ in a bit fixed by both, so the first match found is the only one. -/
theorem decodeIsTheUniqueRow : Obligations.DecodeIsTheUniqueRow := fun cmd =>
  ⟨decodeRow_eq_some_iff cmd, decodeRow_eq_none_iff cmd⟩

/-- Settles O5: a word that is none of the three kinds has the opcode and layout of some row, and then all
of the row's fixed bits; a row's word is none of the three kinds. -/
theorem illegalWordsAreTheReservedOnes : Obligations.IllegalWordsAreTheReservedOnes := by
  intro cmd
  rw [decodeRow_eq_none_iff]
  constructor
  · intro hnone
    by_contra hlegal
    push Not at hlegal
    obtain ⟨hop, hlayout, hzeros⟩ := hlegal
    obtain ⟨r, -, hr, hl⟩ := exists_row_of_opcode _ hop (bits cmd 4 2) (fun h => hlayout h.1 h.2)
    exact hnone r ((and_mask_eq_value_iff cmd r).mpr ⟨hr, hl, hr ▸ hzeros⟩)
  · intro hreserved r hr
    obtain ⟨hop, hlayout, hzeros⟩ := (and_mask_eq_value_iff cmd r).mp hr
    rw [hop] at hreserved
    obtain hnot | ⟨hmv, hthree⟩ | hone := hreserved
    · exact hnot (opcode_mem_opcodes r)
    · exact layout_ne_three r ((hlayout hmv).symm.trans hthree)
    · exact hone hzeros

/-- Settles O9: the effect depends only on what the transaction decodes to. -/
theorem unreadOperandWordsHaveNoEffect : Obligations.UnreadOperandWordsHaveNoEffect := by
  intro t u s
  refine ⟨fun r hr hagree => ?_, fun hnone hcmd => ?_, fun r hr hencoder hs hcmd => ?_⟩
  · refine perform_eq_of_decode_eq ?_ s
    rw [decode_of_decodeRow_some hr, decode_of_decodeRow_some (hagree.1 ▸ hr),
      instr_eq_of_agreeOn hagree]
  · rw [perform_of_decodeRow_none hnone, perform_of_decodeRow_none (hcmd ▸ hnone)]
  · refine perform_eq_of_decode_eq ?_ s
    rw [decode_of_decodeRow_some hr, decode_of_decodeRow_some (hcmd ▸ hr),
      instr_eq_of_lane_source hencoder hs hcmd]

/-- Settles O21: such a word has no row, and the decoder's rejection is performed as R97 says. -/
theorem illegalWordWritesOnlyStatus : Obligations.IllegalWordWritesOnlyStatus := fun t s h =>
  perform_of_decodeRow_none ((decodeRow_eq_none_iff t.cmd).mpr h) s

/-- Settles O6: the mask of NOP's row is every bit. -/
theorem onlyTheZeroWordIsNop : Obligations.OnlyTheZeroWordIsNop := by
  intro t
  have hnop : t.cmd &&& Row.nop.mask = t.cmd := BitVec.and_allOnes
  calc decode t = .ok .nop
      ↔ decodeRow t.cmd = some .nop := ⟨decodeRow_of_decode, decode_of_decodeRow_some⟩
    _ ↔ t.cmd &&& Row.nop.mask = Row.nop.value := decodeRow_eq_some_iff _ _
    _ ↔ t.cmd = 0x00000000 := by rw [hnop]; rfl

/-- Settles O8: each word is one transaction, decoded by its mask and match. -/
theorem specWordsDecode : Obligations.SpecWordsDecode := by
  simp only [Obligations.SpecWordsDecode, decodeTableWord_eq]
  decide

/-- Settles O10: the source's value does not read `LANE` when `S = 0`, and without `EMIT` nothing is
appended to `OUT`. -/
theorem ignoredFieldsHaveNoEffect : Obligations.IgnoredFieldsHaveNoEffect := by
  intro l l' v src kind slot emit a b a' b' s
  have hsrc : srcval (.operand l v) s = srcval (.operand l' v) s := rfl
  refine ⟨?_, ?_, ?_, ?_, ?_, ?_⟩
  · rw [exec_encdc, exec_encdc, hsrc]
  · rw [exec_encang, exec_encang, hsrc]
  · rw [exec_enccrs, exec_enccrs, hsrc]
  · rw [exec_encdc, exec_encdc]; rfl
  · rw [exec_encang, exec_encang]; rfl
  · rw [exec_enccrs, exec_enccrs]; rfl

/-- Settles O56: the expansion's literal operands are read as the values the pseudo-instruction fills in. -/
theorem pseudoInstructionsExpand : Obligations.PseudoInstructionsExpand := by
  obtain ⟨hmaxb, hminb, hstop, hminf, hmaxf⟩ := parseField_crsDefault
  refine ⟨fun fl fr => ?_, ?_, ?_, ?_, ?_, fun slot => ?_, fun lane cha chb => ?_⟩
  · simp only [assembleInstr, parseValue_zero]; rfl
  · simp only [assembleInstr, parseValue_zero]; rfl
  · simp only [assembleInstr, parseMove_stop]; rfl
  · simp only [assembleInstr, parseMove_stop]; rfl
  · simp only [assembleInstr, parseMove_stop]; rfl
  · simp only [assembleInstr, hmaxb, hminb, hstop, hminf, hmaxf]; rfl
  · simp only [assembleInstr, assembleEncdc, parseLane_laneName, parseSource_laneName]; rfl

end Sys2Proof.Proofs.EncodingFamily

/-! # The Power Vector family: lanes clamped, scaled and copied

The statements about NOP, PVNEW, PVSET, PVSCALE and PVVALUES (spec/40_power_vector.md). The model clamps exact
values and rounds them afterwards; the statements clamp integers. The two meet in R117, `rnd_clamp`: with it
`store_clampTo` gives every clamped vector as integer lanes, and the commands' results are read off from that. -/

namespace Sys2Proof.Proofs.PowerVectorFamily

open Sys2Proof Sys2Proof.Machine Sys2Proof.Safety Sys2Proof.Proofs.StateFamily
  Sys2Proof.Proofs.MemoryFamily Sys2Proof.Proofs.EncodingFamily

/-! ## Clamp and rounding (R117) -/

/-- Rounding is monotone and fixes the bounds, so it passes through the `min` and the `max` of a clamp. -/
theorem rnd_clamp (x : ℚ) (lo hi : ℤ) : rnd (clamp x lo hi) = clampInt (rnd x) lo hi := by
  have hmono : Monotone rnd := fun _ _ => rnd_mono
  rw [clamp, hmono.map_min, hmono.map_max, rnd_intCast, rnd_intCast, clampInt]

theorem clamp_mul {x lo hi b : ℚ} (hb : 0 < b) :
    clamp x lo hi * b = clamp (x * b) (lo * b) (hi * b) := by
  rw [← eq_div_iff hb.ne', ← clamp_div hb, mul_div_cancel_right₀ x hb.ne']

/-- R35, R36: the bounds of a range are Q16.16 integers. -/
theorem rangeLo_mul (r : PvRange) : rangeLo r * 65536 = (laneLo r : ℚ) := by
  cases r <;> norm_num [rangeLo, laneLo]

theorem rangeHi_mul (r : PvRange) : rangeHi r * 65536 = ((65536 : ℤ) : ℚ) := by
  cases r <;> norm_num [rangeHi]

theorem rnd_clamp_range (x : ℚ) (r : PvRange) :
    rnd (clamp x (rangeLo r) (rangeHi r) * 65536) = clampInt (rnd (x * 65536)) (laneLo r) 65536 := by
  rw [clamp_mul (by norm_num), rangeLo_mul, rangeHi_mul, rnd_clamp]

theorem tofx_clamp_range (x : ℚ) (r : PvRange) :
    tofx (clamp x (rangeLo r) (rangeHi r)) = laneOf r (rnd (x * 65536)) := by
  rw [tofx, config_one_cast, rnd_clamp_range, laneOf]

/-- A vector clamped and stored, as integer lanes (R111 to R113, R115). -/
theorem store_clampTo (v : LaneValues) (r : PvRange) :
    (v.clampTo r).store r =
      { fl := laneOf r (rnd (v.fl * 65536)), fr := laneOf r (rnd (v.fr * 65536)),
        bl := laneOf r (rnd (v.bl * 65536)), br := laneOf r (rnd (v.br * 65536)), range := r } := by
  simp only [LaneValues.store, LaneValues.clampTo, tofx_clamp_range]

/-! ## The integers that are clamped (R12, R13) -/

/-- The value of a word is a Q16.16 integer, so PVNEW and PVSET round nothing. -/
theorem rnd_fx (w : Word) : rnd (fx w * 65536) = w.toInt := by
  rw [fx_eq, div_mul_cancel₀ _ (by norm_num), rnd_intCast]

/-- R113: the exact product of two words, rounded once. -/
theorem rnd_fx_mul_fx (a b : Word) : rnd (fx a * fx b * 65536) = productInt a b := by
  have hquot : fx a * fx b * 65536 = ((a.toInt * b.toInt : ℤ) : ℚ) / ((65536 : ℤ) : ℚ) := by
    rw [fx_eq, fx_eq]; push_cast; ring
  rw [hquot, rnd_div _ _ (by norm_num), productInt]
  rfl

theorem productInt_one (w : Word) : productInt w 0x00010000 = w.toInt := by
  have hone : (0x00010000 : Word).toInt = 65536 := by decide
  rw [productInt, hone]
  omega

theorem productInt_zero (w : Word) : productInt w 0x00000000 = 0 := by
  simp [productInt]

theorem productInt_nonpos {a b : Word} (ha : 0 ≤ a.toInt) (hb : b.toInt ≤ 0) : productInt a b ≤ 0 := by
  have hprod : a.toInt * b.toInt ≤ 0 := mul_nonpos_of_nonneg_of_nonpos ha hb
  rw [productInt]
  omega

/-! ## Lane words (R35, R36) -/

/-- A word in the range is its own lane. -/
theorem laneOf_toInt {r : PvRange} {w : Word} (h : LaneInRange r w) : laneOf r w.toInt = w := by
  obtain ⟨hlo, hhi⟩ := h
  rw [laneOf, clampInt, max_eq_right hlo, min_eq_right hhi, BitVec.ofInt_toInt]

/-- Both ranges hold 0. -/
theorem laneOf_zero (r : PvRange) : laneOf r 0 = 0 := by
  cases r <;> decide

/-- 0 is the bound that a negative integer is clamped to in the unsigned range. -/
theorem laneOf_unsigned_of_nonpos {n : ℤ} (h : n ≤ 0) : laneOf .unsigned n = 0 := by
  have hclamp : clampInt n (laneLo .unsigned) 65536 = 0 := by
    simp only [clampInt, laneLo]; omega
  rw [laneOf, hclamp]
  rfl

/-! ## The commands in integer lanes -/

theorem exec_pvnew_lanes (r : PvRange) (fl fr bl br : Word) (s : State) :
    exec (.pvnew r fl fr bl br) s =
      .next { s with
        pv := ⟨laneOf r fl.toInt, laneOf r fr.toInt, laneOf r bl.toInt, laneOf r br.toInt, r⟩
        status := 0 } := by
  rw [exec_pvnew, store_clampTo]
  simp only [operandValues, rnd_fx]

/-- R111, R112: PVSET is PVNEW with the current range. -/
theorem exec_pvset_eq_pvnew (fl fr bl br : Word) (s : State) :
    exec (.pvset fl fr bl br) s = exec (.pvnew s.pv.range fl fr bl br) s := rfl

theorem exec_pvscale_lanes (f : Word) (s : State) :
    exec (.pvscale f) s =
      .next { s with
        pv := ⟨laneOf s.pv.range (productInt s.pv.fl f), laneOf s.pv.range (productInt s.pv.fr f),
          laneOf s.pv.range (productInt s.pv.bl f), laneOf s.pv.range (productInt s.pv.br f), s.pv.range⟩
        status := 0 } := by
  rw [exec_pvscale, store_clampTo]
  simp only [LaneValues.scale, PowerVector.values, rnd_fx_mul_fx]

/-- R116: with operands in the range PVNEW clamps nothing. -/
theorem exec_pvnew_of_inRange {r : PvRange} {fl fr bl br : Word} (h : PvInRange ⟨fl, fr, bl, br, r⟩)
    (s : State) :
    exec (.pvnew r fl fr bl br) s = .next { s with pv := ⟨fl, fr, bl, br, r⟩, status := 0 } := by
  obtain ⟨hfl, hfr, hbl, hbr⟩ := h
  rw [exec_pvnew_lanes, laneOf_toInt hfl, laneOf_toInt hfr, laneOf_toInt hbl, laneOf_toInt hbr]

/-! ## The words that are a command (R96, R99) -/

/-- A transaction whose command word is a row's performs that row's instruction. -/
theorem perform_of_mask {t : Transaction} {r : Row} (h : t.cmd &&& r.mask = r.value) (s : State) :
    perform t s = exec (r.instr t) s := by
  rw [perform, decode_of_matches ((matches_iff r t.cmd).mpr h)]

/-- R84: the field `R` is bit 0 of the command word. -/
theorem pvRange_ofBit_bits (cmd : Word) :
    PvRange.ofBit (bits cmd 0 1) = if cmd.getLsbD 0 then .unsigned else .signed := by
  have hbit : bits cmd 0 1 = BitVec.ofBool (cmd.getLsbD 0) := by
    apply BitVec.eq_of_getLsbD_eq
    intro i hi
    obtain rfl : i = 0 := by omega
    simp [bits]
  rw [hbit]
  cases cmd.getLsbD 0 <;> rfl

/-! ## The statements -/

/-- Settles O34. -/
theorem clampAndRoundingCommute : Obligations.ClampAndRoundingCommute := rnd_clamp_range

/-- Settles O30. -/
theorem pvnewResult : Obligations.PvnewResult := by
  refine ⟨exec_pvnew_lanes, fun t s h => ?_⟩
  rw [perform_of_mask (r := .pvnew) h, Row.instr, pvRange_ofBit_bits]

/-- Settles O31: the clamp is PVNEW's. -/
theorem pvsetResult : Obligations.PvsetResult := by
  refine ⟨fun fl fr bl br s => ?_, fun t s h => perform_of_mask (r := .pvset) h s⟩
  rw [exec_pvset_eq_pvnew, exec_pvnew_lanes]

/-- Settles O32. -/
theorem pvscaleResult : Obligations.PvscaleResult :=
  ⟨exec_pvscale_lanes, fun _ s h => perform_of_mask (r := .pvscale) h s⟩

/-- Settles O35: in range nothing is clamped, and in any case PVSET does not read the lanes it replaces. -/
theorem clampingIsIdempotent : Obligations.ClampingIsIdempotent := by
  intro fl fr bl br s
  refine ⟨fun h => ?_, fun r h => exec_pvnew_of_inRange h s, fun s' h => ?_⟩
  · rw [exec_pvset_eq_pvnew, exec_pvnew_of_inRange h]
  · exact listedCommandsAreIdempotent _ _ _ rfl h

/-- Settles O36: the three factors make each lane's product the lane's own word, 0, and at most 0. -/
theorem scaleByOneZeroAndNegative : Obligations.ScaleByOneZeroAndNegative := by
  intro s
  simp only [exec_pvscale_lanes]
  refine ⟨fun h => ?_, ?_, fun f hf h hr => ?_⟩
  · obtain ⟨hfl, hfr, hbl, hbr⟩ := h
    simp only [productInt_one]
    rw [laneOf_toInt hfl, laneOf_toInt hfr, laneOf_toInt hbl, laneOf_toInt hbr]
  · simp only [productInt_zero, laneOf_zero]
  · rw [PvInRange, hr] at h
    obtain ⟨hfl, hfr, hbl, hbr⟩ := h
    have hlane {w : Word} (hw : LaneInRange .unsigned w) : laneOf .unsigned (productInt w f) = 0 :=
      laneOf_unsigned_of_nonpos (productInt_nonpos hw.1 hf.le)
    rw [hr, hlane hfl, hlane hfr, hlane hbl, hlane hbr]

/-- Settles O29. -/
theorem nopResult : Obligations.NopResult :=
  ⟨exec_nop, fun _ s h => perform_of_mask (r := .nop) h s⟩

/-- Settles O33. -/
theorem pvvaluesResult : Obligations.PvvaluesResult :=
  ⟨exec_pvvalues, fun _ s h => perform_of_mask (r := .pvvalues) h s⟩

end Sys2Proof.Proofs.PowerVectorFamily

/-! # The kinematics family: discrete moves and continuous mixing

The statements about MOVE.2W, MOVE.4D, MOVE.4M and MECANUM (spec/41_kinematics.md). The discrete moves store
vectors of the whole values 1, 0 and -1, so each table's row is read off move by move. MECANUM divides exact
inputs by their sum of magnitudes: the quotients do not depend on the scale of the inputs (`mecanumMix_div`), so
the integer numerators of `motionInt` give the same lanes, and `exec_mecanum_int` says MECANUM in integers. -/

namespace Sys2Proof.Proofs.KinematicsFamily

open Sys2Proof Sys2Proof.Machine Sys2Proof.Safety Sys2Proof.Proofs.StateFamily
  Sys2Proof.Proofs.MemoryFamily Sys2Proof.Proofs.EncodingFamily Sys2Proof.Proofs.PowerVectorFamily

/-! ## The move tables (R130, R131, R134) -/

/-- The codes outside the Move set have Stop's vector and are not supported. -/
theorem tables_of_unknown {code : BitVec 4} (h : (MoveArg.unknown code).wellFormed) (southHist : Bool) :
    table2w code = (unitPv 0 0 0 0, 1) ∧ table4d code = (unitPv 0 0 0 0, 1) ∧
      table4m southHist code = (unitPv 0 0 0 0, 1) := by
  revert code southHist
  decide

theorem store_zero : LaneValues.store ⟨0, 0, 0, 0⟩ .signed = unitPv 0 0 0 0 := by
  simp only [LaneValues.store, tofx_zero, unitPv]

/-- R134, the vectors of the eleven moves. -/
theorem store_mecVector (southHist : Bool) (m : Move) :
    (mecVector southHist m).store .signed = (table4m southHist m.code).1 := by
  cases m with
  | south => exact store_mecVector_south southHist
  | _ => simp only [mecVector, LaneValues.store, tofx_zero, tofx_one, tofx_neg_one]; rfl

/-- R131: both columns of the differential table, vector and `STATUS`, from the model's one table. -/
theorem diff_eq_tables {m : MoveArg} (h : m.wellFormed) :
    (LaneValues.store ⟨(diff m).1.1, (diff m).1.2, 0, 0⟩ .signed, if (diff m).2 then 0 else 1) =
        table2w m.toBits ∧
      (LaneValues.store ⟨(diff m).1.1, (diff m).1.2, (diff m).1.1, (diff m).1.2⟩ .signed,
        if (diff m).2 then 0 else 1) = table4d m.toBits := by
  cases m with
  | named m =>
    cases m <;> simp only [diff, diffVector, LaneValues.store, tofx_zero, tofx_one, tofx_neg_one] <;>
      exact ⟨rfl, rfl⟩
  | unknown code =>
    obtain ⟨h2w, h4d, -⟩ := tables_of_unknown h false
    simp only [diff, store_zero, MoveArg.toBits, h2w, h4d]
    exact ⟨rfl, rfl⟩

/-- R134: the mecanum table, vector and `STATUS`. -/
theorem mec_eq_table {m : MoveArg} (h : m.wellFormed) (southHist : Bool) :
    ((mec m southHist).1.store .signed, if (mec m southHist).2 then 0 else 1) =
      table4m southHist m.toBits := by
  cases m with
  | named m =>
    simp only [mec, store_mecVector]
    cases m <;> rfl
  | unknown code =>
    obtain ⟨-, -, h4m⟩ := tables_of_unknown h southHist
    simp only [mec, store_zero, MoveArg.toBits, h4m]
    rfl

theorem exec_move2w_table {m : MoveArg} (h : m.wellFormed) (s : State) :
    exec (.move2w m) s =
      .next { s with pv := (table2w m.toBits).1, status := (table2w m.toBits).2 } := by
  rw [exec_move2w, ← (diff_eq_tables h).1]

theorem exec_move4d_table {m : MoveArg} (h : m.wellFormed) (s : State) :
    exec (.move4d m) s =
      .next { s with pv := (table4d m.toBits).1, status := (table4d m.toBits).2 } := by
  rw [exec_move4d, ← (diff_eq_tables h).2]

theorem exec_move4m_table {m : MoveArg} (h : m.wellFormed) (s : State) :
    exec (.move4m m) s =
      .next { s with
        pv := (table4m s.southHist m.toBits).1, status := (table4m s.southHist m.toBits).2 } := by
  rw [exec_move4m, ← mec_eq_table h]

/-! ## MECANUM's inputs as numerators (R136) -/

/-- The numerator that stands for the input 1 on a scale. -/
def motionOne : InputScale → ℤ
  | .unit => 65536
  | .percent => 6553600

theorem motionOne_pos (p : InputScale) : 0 < motionOne p := by cases p <;> decide

theorem motionInt_eq (p : InputScale) (w : Word) :
    motionInt p w = clampInt w.toInt (-motionOne p) (motionOne p) := by
  cases p <;> rfl

theorem clamp_intCast (n lo hi : ℤ) : clamp n lo hi = (clampInt n lo hi : ℤ) := by
  simp only [clamp, clampInt, Int.cast_min, Int.cast_max]

theorem fx_div_scaleDivisor (p : InputScale) (w : Word) :
    fx w / scaleDivisor p = w.toInt / motionOne p := by
  cases p <;> rw [fx_eq, div_div] <;> norm_num [scaleDivisor, motionOne, Config.PCT]

theorem motionInput_eq (p : InputScale) (w : Word) : motionInput p w = motionInt p w / motionOne p := by
  have hpos : (0 : ℚ) < motionOne p := by exact_mod_cast motionOne_pos p
  rw [motionInput, fx_div_scaleDivisor, clamp_div hpos, motionInt_eq, ← clamp_intCast]
  push_cast
  rw [neg_one_mul, one_mul]

/-- Zero lies between the bounds, so only the zero word is clamped to it. -/
theorem motionInt_eq_zero_iff (p : InputScale) (w : Word) : motionInt p w = 0 ↔ w = 0 := by
  have hpos := motionOne_pos p
  rw [motionInt_eq, clampInt, ← BitVec.toInt_inj, BitVec.ofNat_eq_ofNat, BitVec.toInt_zero]
  omega

/-! ## The mixing (R136) -/

/-- With all inputs 0 the quotients are 0 as well, so the mixing is one formula. -/
theorem mecanumMix_eq (lat lon rot : ℚ) :
    mecanumMix lat lon rot =
      { fl := (lat + lon + rot) / (|lat| + |lon| + |rot|)
        fr := (lat - lon - rot) / (|lat| + |lon| + |rot|)
        bl := (lat - lon + rot) / (|lat| + |lon| + |rot|)
        br := (lat + lon - rot) / (|lat| + |lon| + |rot|) } := by
  simp only [mecanumMix]
  split
  · next hzero => simp only [hzero, div_zero]
  · rfl

/-- The mixing does not depend on the scale of its inputs. -/
theorem mecanumMix_div {d : ℚ} (hd : 0 < d) (lat lon rot : ℚ) :
    mecanumMix (lat / d) (lon / d) (rot / d) = mecanumMix lat lon rot := by
  simp only [mecanumMix_eq, abs_div, abs_of_pos hd, ← add_div, ← sub_div,
    div_div_div_cancel_right₀ hd.ne']

/-- A quotient of integers is stored by one floor division, and a quotient by 0 as 0. -/
theorem tofx_div (n : ℤ) {r : ℤ} (hr : 0 ≤ r) : tofx ((n : ℚ) / (r : ℚ)) = quotientWord n r := by
  obtain rfl | hpos := hr.eq_or_lt
  · rw [Int.cast_zero, div_zero, tofx_zero]
    rfl
  · have hscale : (n : ℚ) / r * 65536 = ((65536 * n : ℤ) : ℚ) / r := by push_cast; ring
    rw [tofx, config_one_cast, hscale, rnd_div _ _ hpos, quotientWord, if_neg hpos.ne']

theorem store_mecanumMix (lat lon rot : ℤ) :
    (mecanumMix lat lon rot).store .signed = mecanumInt lat lon rot := by
  have hnorm : 0 ≤ |lat| + |lon| + |rot| := by positivity
  simp only [mecanumMix_eq, LaneValues.store, mecanumInt, ← tofx_div _ hnorm]
  push_cast
  rfl

theorem exec_mecanum_int (p : InputScale) (lat lon rot : Word) (s : State) :
    exec (.mecanum p lat lon rot) s =
      .next { s with
        pv := mecanumInt (motionInt p lat) (motionInt p lon) (motionInt p rot), status := 0 } := by
  have hpos : (0 : ℚ) < motionOne p := by exact_mod_cast motionOne_pos p
  rw [exec_mecanum, motionInput_eq, motionInput_eq, motionInput_eq, mecanumMix_div hpos,
    store_mecanumMix]

theorem bits_one_eq_ofBool (cmd : Word) (lo : Nat) :
    bits cmd lo 1 = BitVec.ofBool (cmd.getLsbD lo) := by
  apply BitVec.eq_of_getLsbD_eq
  intro i hi
  obtain rfl : i = 0 := by omega
  simp [bits]

/-- R86: the field `P` is bit 0 of the command word. -/
theorem inputScale_ofBit_bits (cmd : Word) :
    InputScale.ofBit (bits cmd 0 1) = if cmd.getLsbD 0 then .percent else .unit := by
  rw [bits_one_eq_ofBool]
  cases cmd.getLsbD 0 <;> rfl

/-! ## Bounds and full magnitude (R137, R138) -/

/-- The four lanes' sums run, up to a common sign, through all signs of the three inputs; the signs that make
each input positive give the sum of the magnitudes. -/
theorem some_abs_sum_eq_norm (lat lon rot : ℤ) :
    |lat + lon + rot| = |lat| + |lon| + |rot| ∨ |lat - lon - rot| = |lat| + |lon| + |rot| ∨
      |lat - lon + rot| = |lat| + |lon| + |rot| ∨ |lat + lon - rot| = |lat| + |lon| + |rot| := by
  simp only [abs_eq_max_neg]
  omega

theorem quotientWord_of_abs_eq {n r : ℤ} (hr : 0 < r) (h : |n| = r) :
    quotientWord n r = 0x00010000 ∨ quotientWord n r = 0xFFFF0000 := by
  have hne : (r : ℚ) ≠ 0 := by exact_mod_cast hr.ne'
  rw [← tofx_div n hr.le]
  obtain rfl | rfl := (abs_eq hr.le).mp h
  · rw [div_self hne, tofx_one]
    exact .inl rfl
  · rw [Int.cast_neg, neg_div, div_self hne, tofx_neg_one]
    exact .inr rfl

theorem mecanumInt_full_lane {lat lon rot : ℤ} (h : 0 < |lat| + |lon| + |rot|) :
    ∃ l : Lane, (mecanumInt lat lon rot).lane l = 0x00010000 ∨
      (mecanumInt lat lon rot).lane l = 0xFFFF0000 := by
  obtain hfl | hfr | hbl | hbr := some_abs_sum_eq_norm lat lon rot
  · exact ⟨.fl, quotientWord_of_abs_eq h hfl⟩
  · exact ⟨.fr, quotientWord_of_abs_eq h hfr⟩
  · exact ⟨.bl, quotientWord_of_abs_eq h hbl⟩
  · exact ⟨.br, quotientWord_of_abs_eq h hbr⟩

/-- The norm of MECANUM's numerators is 0 for the zero operands alone. -/
theorem motion_norm_pos {p : InputScale} {lat lon rot : Word} (h : lat ≠ 0 ∨ lon ≠ 0 ∨ rot ≠ 0) :
    0 < |motionInt p lat| + |motionInt p lon| + |motionInt p rot| := by
  simp only [ne_eq, ← motionInt_eq_zero_iff p] at h
  simp only [abs_eq_max_neg]
  omega

/-! ## The two scales, and the two maps (R136, R139) -/

/-- An input in percent is a hundredth of its word's value. -/
theorem motionInput_percent {w pw : Word} (h : pw.toInt = 100 * w.toInt) :
    motionInput .percent pw = motionInput .unit w := by
  have hvalue : fx pw / scaleDivisor .percent = fx w / scaleDivisor .unit := by
    rw [fx_div_scaleDivisor, fx_div_scaleDivisor, h]
    norm_num [motionOne]
    ring
  rw [motionInput, motionInput, hvalue]

theorem table4m_ne_mecanum_lon (southHist : Bool) (code : BitVec 4) :
    (table4m southHist code).1 ≠ unitPv 1 (-1) (-1) 1 := by
  revert southHist code
  decide

/-- No move operand, well-formed or not, has the vector of MECANUM 0, 1, 0. -/
theorem store_mec_ne_mecanum_lon (m : MoveArg) (southHist : Bool) :
    (mec m southHist).1.store .signed ≠ unitPv 1 (-1) (-1) 1 := by
  cases m with
  | named m =>
    simp only [mec, store_mecVector]
    exact table4m_ne_mecanum_lon southHist m.code
  | unknown code =>
    simp only [mec, store_zero]
    decide

/-! ## The statements -/

/-- Settles O37. -/
theorem move2wResult : Obligations.Move2wResult := by
  refine ⟨fun code s => ?_, fun t s h => perform_of_mask (r := .move2w) h s⟩
  rw [exec_move2w_table (moveArg_ofBits_wellFormed code), moveArg_toBits_ofBits]

/-- Settles O38. -/
theorem move4dResult : Obligations.Move4dResult := by
  refine ⟨fun code s => ?_, fun t s h => perform_of_mask (r := .move4d) h s⟩
  rw [exec_move4d_table (moveArg_ofBits_wellFormed code), moveArg_toBits_ofBits]

/-- Settles O39. -/
theorem move4mResult : Obligations.Move4mResult := by
  refine ⟨fun code s => ?_, fun t s h => perform_of_mask (r := .move4m) h s⟩
  rw [exec_move4m_table (moveArg_ofBits_wellFormed code), moveArg_toBits_ofBits]

/-- Settles O40. -/
theorem mecanumResult : Obligations.MecanumResult := by
  refine ⟨exec_mecanum_int, fun t s h => ?_⟩
  rw [perform_of_mask (r := .mecanum) h, Row.instr, inputScale_ofBit_bits]

/-- Settles O41: no quotient by the norm leaves [-1, 1], and MECANUM's range is signed. -/
theorem mecanumLanesAreBounded : Obligations.MecanumLanesAreBounded := by
  intro p lat lon rot s s' h l
  rw [exec_mecanum] at h
  cases h
  obtain ⟨hfl, hfr, hbl, hbr⟩ := (withinOne_mecanumMix (motionInput p lat) (motionInput p lon)
    (motionInput p rot)).pvInRange_store
  cases l with
  | fl => exact hfl
  | fr => exact hfr
  | bl => exact hbl
  | br => exact hbr

/-- Settles O42: the lane whose signs are those of the inputs has the norm itself as its numerator. -/
theorem mecanumHasFullMagnitude : Obligations.MecanumHasFullMagnitude := by
  intro p lat lon rot s s' h
  rw [exec_mecanum_int] at h
  cases h
  refine ⟨fun hne => mecanumInt_full_lane (motion_norm_pos hne), ?_⟩
  rintro ⟨rfl, rfl, rfl⟩
  simp only [(motionInt_eq_zero_iff p 0).mpr rfl]
  rfl

/-- Settles O43: the two commands mix the same exact inputs. -/
theorem percentScaleIsAHundredth : Obligations.PercentScaleIsAHundredth := by
  intro lat lon rot plat plon prot s hlat hlon hrot
  rw [exec_mecanum, exec_mecanum, motionInput_percent hlat, motionInput_percent hlon,
    motionInput_percent hrot]

/-- Settles O44: MECANUM's two vectors are computed in integers, and the table is searched for the first. -/
theorem discreteAndContinuousDiffer : Obligations.DiscreteAndContinuousDiffer := by
  intro s
  have hlon : mecanumInt (motionInt .unit 0) (motionInt .unit 0x00010000) (motionInt .unit 0) =
      unitPv 1 (-1) (-1) 1 := by decide
  have hlat : mecanumInt (motionInt .unit 0x00010000) (motionInt .unit 0) (motionInt .unit 0) =
      unitPv 1 1 1 1 := by decide
  refine ⟨?_, fun m s' h => ?_, exec_move4m_table (m := .named .north) rfl s, ?_⟩
  · rw [exec_mecanum_int, hlon]
  · rw [exec_move4m] at h
    cases h
    exact store_mec_ne_mecanum_lon m s.southHist
  · rw [exec_mecanum_int, hlat]

end Sys2Proof.Proofs.KinematicsFamily

/-! # The actuation family: power, angle and speed as pulse counts

The statements about ENCDC, ENCANG and ENCCRS (spec/42_actuation_encoder.md). The model computes each count in
exact rationals and saturates it; the statements compute it in integers with one floor division. The two meet in
`clamp_fx`, which writes the clamped input as a quotient by 65536: each count is then the rounding of a quotient
of integers. The bounds R159 gives the counts before saturation show that saturation keeps them. -/

namespace Sys2Proof.Proofs.ActuationFamily

open Sys2Proof Sys2Proof.Machine Sys2Proof.Safety Sys2Proof.Proofs.MemoryFamily
  Sys2Proof.Proofs.PowerVectorFamily Sys2Proof.Proofs.KinematicsFamily

/-! ## The fields of an encoder command (R87 to R89, R93) -/

theorem toNat_laneField (cmd : Word) : (bits cmd 8 2).toNat = cmd.toNat / 256 % 4 := by
  rw [bits, BitVec.extractLsb'_toNat, Nat.shiftRight_eq_div_pow]

theorem sourceField_eq (t : Transaction) : sourceField t = Source.ofTransaction t := by
  rw [sourceField, Source.ofTransaction, Lane.ofBits, toNat_laneField, bits_one_eq_ofBool]
  cases t.cmd.getLsbD 10 <;> rfl

theorem emitBit_eq_getLsbD (cmd : Word) : emitBit cmd = cmd.getLsbD 11 :=
  emitBit_eq (bits_one_eq_ofBool cmd 11)

/-- R88: the field `L` is bit 12 of the command word. -/
theorem servoKind_ofBit_bits (cmd : Word) :
    ServoKind.ofBit (bits cmd 12 1) = if cmd.getLsbD 12 then .deg270 else .deg180 := by
  rw [bits_one_eq_ofBool]
  cases cmd.getLsbD 12 <;> rfl

/-! ## The encoders' input (R150) -/

theorem srcval_eq_fx (src : Source) (s : State) : srcval src s = fx (sourceWord src s) := by
  cases src <;> rfl

/-- A word's value clamped to a whole limit is the clamped Q16.16 integer over 65536. -/
theorem clamp_fx (w : Word) (lim : ℤ) :
    clamp (fx w) (-lim) lim = (clampInt w.toInt (-(lim * 65536)) (lim * 65536) : ℤ) / 65536 := by
  rw [fx_eq, clamp_div (by norm_num), ← clamp_intCast]
  push_cast
  rw [neg_mul]

/-- The clamped input of ENCDC and ENCCRS. -/
theorem clamp_fx_one (w : Word) :
    clamp (fx w) (-1) 1 = (clampInt w.toInt (-65536) 65536 : ℤ) / 65536 := by
  simpa using clamp_fx w 1

theorem abs_clamp_le_one (v : ℚ) : |clamp v (-1) 1| ≤ 1 :=
  abs_le.mpr (clamp_mem (by norm_num) v)

/-- Clamping to [-1, 1] keeps the sign. -/
theorem clamp_pos_iff (v : ℚ) : 0 < clamp v (-1) 1 ↔ 0 < v := by
  simp [clamp]

theorem clamp_neg_iff (v : ℚ) : clamp v (-1) 1 < 0 ↔ v < 0 := by
  simp [clamp]

theorem fx_pos_iff (w : Word) : 0 < fx w ↔ 0 < w.toInt := by
  rw [fx_eq, lt_div_iff₀ (by norm_num), zero_mul, Int.cast_pos]

theorem fx_neg_iff (w : Word) : fx w < 0 ↔ w.toInt < 0 := by
  rw [fx_eq, div_lt_iff₀ (by norm_num), zero_mul, Int.cast_lt_zero]

theorem fx_eq_zero {w : Word} (h : w.toInt = 0) : fx w = 0 := by
  rw [fx_eq, h, Int.cast_zero, zero_div]

/-! ## ENCDC's counts (R152) -/

theorem dcMagnitude_mem {p : ℚ} (h : |p| ≤ 1) : 0 ≤ dcMagnitude p ∧ dcMagnitude p ≤ 4095 := by
  have hrnd : 0 ≤ rnd (|p| * 4095) ∧ rnd (|p| * 4095) ≤ 4095 :=
    rnd_mem (by push_cast; positivity) (by push_cast; linarith)
  simp only [dcMagnitude, Config.DC_FULL]
  push_cast
  omega

/-- R152: one magnitude, on the side the sign selects. -/
theorem dc_eq (v : ℚ) :
    dc v = (if 0 < v then dcMagnitude (clamp v (-1) 1) else 0,
      if v < 0 then dcMagnitude (clamp v (-1) 1) else 0) := by
  simp only [dc, clamp_pos_iff, clamp_neg_iff]
  obtain hneg | rfl | hpos := lt_trichotomy v 0
  · simp [hneg, hneg.not_gt]
  · simp
  · simp [hpos, hpos.not_gt]

theorem dc_mem (v : ℚ) : 0 ≤ (dc v).1 ∧ (dc v).1 ≤ 4095 ∧ 0 ≤ (dc v).2 ∧ (dc v).2 ≤ 4095 := by
  have hmag := dcMagnitude_mem (abs_clamp_le_one v)
  rw [dc_eq]
  dsimp only
  split_ifs <;> omega

theorem dcMagnitude_div {a : ℤ} (h : |a| ≤ 65536) :
    dcMagnitude ((a : ℚ) / 65536) = (2 * (|a| * 4095) + 65536) / 131072 := by
  have hquot : |(a : ℚ) / 65536| * 4095 = ((|a| * 4095 : ℤ) : ℚ) / ((65536 : ℤ) : ℚ) := by
    rw [abs_div]; push_cast; norm_num; ring
  simp only [dcMagnitude, Config.DC_FULL]
  push_cast
  rw [hquot, rnd_div _ _ (by norm_num)]
  omega

theorem abs_clampInt_le {n lim : ℤ} (h : 0 ≤ lim) : |clampInt n (-lim) lim| ≤ lim := by
  rw [clampInt, abs_le]
  omega

theorem sat12_dcMagnitude_fx (w : Word) :
    sat12 (dcMagnitude (clamp (fx w) (-1) 1)) = dcInt w := by
  obtain ⟨hlo, hhi⟩ := dcMagnitude_mem (abs_clamp_le_one (fx w))
  rw [sat12_of_mem hlo hhi, clamp_fx_one, dcMagnitude_div (abs_clampInt_le (by norm_num)), dcInt]

/-- The two pulse registers of ENCDC as the statement writes them. -/
theorem sat12_dc_fx (w : Word) :
    sat12 (dc (fx w)).1 = (if 0 < w.toInt then dcInt w else 0) ∧
      sat12 (dc (fx w)).2 = (if w.toInt < 0 then dcInt w else 0) := by
  simp only [dc_eq, fx_pos_iff, fx_neg_iff, apply_ite sat12, sat12_dcMagnitude_fx]
  exact ⟨rfl, rfl⟩

/-! ## ENCANG's count (R154) -/

/-- The limit of a servo kind as a whole number of degrees. -/
def limitDegrees : ServoKind → ℤ
  | .deg180 => 90
  | .deg270 => 135

theorem angularLimit_eq (kind : ServoKind) : angularLimit kind = (limitDegrees kind : ℚ) := by
  cases kind <;> rfl

/-- The angular count before saturation, in integers. -/
def angCount (w : Word) (kind : ServoKind) : ℤ :=
  (clampInt w.toInt (-(limitDegrees kind * 65536)) (limitDegrees kind * 65536) + 60 * 65536 + 16000) / 32000

theorem angInt_eq (w : Word) (kind : ServoKind) : angInt w kind = BitVec.ofInt 12 (max 0 (angCount w kind)) := by
  cases kind <;> rfl

/-- The slope and offset of R154 multiplied out. -/
theorem angTicks_eq (d : ℚ) : angTicks d = (d + 60) * 65536 / 32000 := by
  simp only [angTicks, Config.US_NUM, Config.US_DEN, Config.US_OFF, Config.TICKS, Config.PERIOD_US]
  push_cast
  ring

theorem rnd_angTicks_fx (w : Word) (kind : ServoKind) :
    rnd (angTicks (clamp (fx w) (-angularLimit kind) (angularLimit kind))) = angCount w kind := by
  rw [angularLimit_eq, clamp_fx, angCount]
  generalize clampInt w.toInt _ _ = a
  have hquot : angTicks ((a : ℚ) / 65536) = ((a + 60 * 65536 : ℤ) : ℚ) / ((32000 : ℤ) : ℚ) := by
    rw [angTicks_eq]; push_cast; ring
  rw [hquot, rnd_div _ _ (by norm_num)]
  omega

/-- The clamp keeps the count far below 4096. -/
theorem rnd_angTicks_le (v : ℚ) (kind : ServoKind) :
    rnd (angTicks (clamp v (-angularLimit kind) (angularLimit kind))) ≤ 4095 := by
  have hlim : 0 ≤ angularLimit kind ∧ angularLimit kind ≤ 135 := by
    rw [angularLimit_eq]; cases kind <;> norm_num [limitDegrees]
  obtain ⟨-, hclamp⟩ := clamp_mem (show -angularLimit kind ≤ angularLimit kind by linarith) v
  have hticks : angTicks (clamp v (-angularLimit kind) (angularLimit kind)) ≤ ((4095 : ℤ) : ℚ) := by
    rw [angTicks_eq]; push_cast; linarith
  simpa only [rnd_intCast] using rnd_mono hticks

/-- Below the upper bound saturation only cuts negative counts to 0. -/
theorem sat12_of_le {n : ℤ} (h : n ≤ 4095) : sat12 n = BitVec.ofInt 12 (max 0 n) := by
  have hmax : ((Config.PMAX : ℕ) : ℤ) = 4095 := by decide
  rw [sat12, hmax, min_eq_right (max_le (by norm_num) h)]

theorem angCount_le (w : Word) (kind : ServoKind) : angCount w kind ≤ 4095 := by
  rw [← rnd_angTicks_fx]
  exact rnd_angTicks_le (fx w) kind

theorem ang_fx (w : Word) (kind : ServoKind) : ang (fx w) kind = angInt w kind := by
  simp only [ang]
  rw [rnd_angTicks_fx, sat12_of_le (angCount_le w kind), angInt_eq]

theorem angInt_toNat (w : Word) (kind : ServoKind) :
    ((angInt w kind).toNat : ℤ) = max 0 (angCount w kind) := by
  have hle := angCount_le w kind
  rw [angInt_eq, ← sat12_of_le hle, sat12_toNat]
  omega

theorem angCount_mono {v w : Word} (h : v.toInt ≤ w.toInt) (kind : ServoKind) :
    angCount v kind ≤ angCount w kind := by
  simp only [angCount, clampInt]
  omega

theorem angInt_mono {v w : Word} (h : v.toInt ≤ w.toInt) (kind : ServoKind) :
    (angInt v kind).toNat ≤ (angInt w kind).toNat := by
  have hcount := angCount_mono h kind
  zify
  rw [angInt_toNat, angInt_toNat]
  omega

/-- Both limits lie beyond 60 degrees, so the clamp leaves such an angle at or below -60. -/
theorem angCount_nonpos {w : Word} (h : w.toInt ≤ -60 * 65536) (kind : ServoKind) : angCount w kind ≤ 0 := by
  have hlim : 60 ≤ limitDegrees kind := by cases kind <;> decide
  simp only [angCount, clampInt]
  omega

theorem angInt_eq_zero {w : Word} (h : w.toInt ≤ -60 * 65536) (kind : ServoKind) : angInt w kind = 0 := by
  rw [angInt_eq, max_eq_left (angCount_nonpos h kind)]
  rfl

/-- At and beyond the limit the count is the limit's. -/
theorem angInt_of_limit_le {w : Word} {kind : ServoKind} (h : limitDegrees kind * 65536 ≤ w.toInt) :
    angInt w kind = BitVec.ofInt 12 (((limitDegrees kind + 60) * 65536 + 16000) / 32000) := by
  have hlim : 60 ≤ limitDegrees kind := by cases kind <;> decide
  rw [angInt_eq, angCount, clampInt]
  congr 1
  omega

/-! ## ENCCRS's count (R156) -/

/-- The rounded count at `x` of the way from one point of a side to its other point. -/
def interpolated (near far : PulseCount) (x : ℚ) : ℤ :=
  rnd (point near + x * (point far - point near))

theorem rnd_crsValue_zero (c : Calibration) : rnd (crsValue 0 c) = c.stop.toNat := by
  simpa [crsValue, point] using rnd_intCast c.stop.toNat

theorem rnd_crsValue_pos {v : ℚ} (h : 0 < v) (c : Calibration) :
    rnd (crsValue v c) = interpolated c.minf c.maxf v := by
  rw [crsValue, if_neg h.ne', if_pos h, interpolated]

theorem rnd_crsValue_neg {v : ℚ} (h : v < 0) (c : Calibration) :
    rnd (crsValue v c) = interpolated c.minb c.maxb (-v) := by
  rw [crsValue, if_neg h.ne, if_neg h.not_gt, interpolated]

/-- An interpolated count lies between its two points, whichever is greater: it rounds a convex combination of
them. -/
theorem interpolated_mem (near far : PulseCount) {x : ℚ} (h0 : 0 ≤ x) (h1 : x ≤ 1) :
    ((min near.toNat far.toNat : ℕ) : ℤ) ≤ interpolated near far x ∧
      interpolated near far x ≤ ((max near.toNat far.toNat : ℕ) : ℤ) := by
  have hcombo : point near + x * (point far - point near) =
      (1 - x) • point near + x • point far := by
    simp only [smul_eq_mul]; ring
  have hrest : 0 ≤ 1 - x := by linarith
  rw [interpolated, hcombo]
  apply rnd_mem <;> push_cast
  · exact Convex.min_le_combo _ _ hrest h0 (by ring)
  · exact Convex.combo_le_max _ _ hrest h0 (by ring)

theorem interpolated_one (near far : PulseCount) : interpolated near far 1 = far.toNat := by
  have hend : point near + 1 * (point far - point near) = ((far.toNat : ℤ) : ℚ) := by
    simp [point]
  rw [interpolated, hend, rnd_intCast]

theorem interpolated_div (near far : PulseCount) (a : ℤ) :
    interpolated near far ((a : ℚ) / 65536) =
      (2 * (65536 * (near.toNat : ℤ) + a * (far.toNat - near.toNat)) + 65536) / 131072 := by
  have hquot : point near + (a : ℚ) / 65536 * (point far - point near) =
      ((65536 * (near.toNat : ℤ) + a * (far.toNat - near.toNat) : ℤ) : ℚ) / ((65536 : ℤ) : ℚ) := by
    simp only [point]; push_cast; ring
  rw [interpolated, hquot, rnd_div _ _ (by norm_num)]
  rfl

theorem interpolated_bounds (near far : PulseCount) {x : ℚ} (h0 : 0 ≤ x) (h1 : x ≤ 1) :
    0 ≤ interpolated near far x ∧ interpolated near far x ≤ 4095 := by
  have hmem := interpolated_mem near far h0 h1
  omega

/-- Clamped speeds give counts in range for every calibration. -/
theorem rnd_crsValue_mem {v : ℚ} (h : |v| ≤ 1) (c : Calibration) :
    0 ≤ rnd (crsValue v c) ∧ rnd (crsValue v c) ≤ 4095 := by
  obtain ⟨hlo, hhi⟩ := abs_le.mp h
  obtain hneg | rfl | hpos := lt_trichotomy v 0
  · rw [rnd_crsValue_neg hneg]
    exact interpolated_bounds _ _ (by linarith) (by linarith)
  · rw [rnd_crsValue_zero]
    omega
  · rw [rnd_crsValue_pos hpos]
    exact interpolated_bounds _ _ hpos.le hhi

/-- So saturation keeps the count. -/
theorem crs_eq_ofInt (v : ℚ) (c : Calibration) :
    crs v c = BitVec.ofInt 12 (rnd (crsValue (clamp v (-1) 1) c)) := by
  obtain ⟨hlo, hhi⟩ := rnd_crsValue_mem (abs_clamp_le_one v) c
  rw [crs, sat12_of_mem hlo hhi]

theorem crs_toNat (v : ℚ) (c : Calibration) :
    ((crs v c).toNat : ℤ) = rnd (crsValue (clamp v (-1) 1) c) := by
  have hmem := rnd_crsValue_mem (abs_clamp_le_one v) c
  rw [crs, sat12_toNat]
  omega

theorem crs_fx (w : Word) (c : Calibration) : crs (fx w) c = crsInt w c := by
  rw [crs_eq_ofInt, clamp_fx_one, crsInt]
  generalize clampInt w.toInt (-65536) 65536 = a
  obtain hneg | rfl | hpos := lt_trichotomy a 0
  · have hv : (a : ℚ) / 65536 < 0 := div_neg_of_neg_of_pos (by exact_mod_cast hneg) (by norm_num)
    rw [rnd_crsValue_neg hv, ← neg_div, ← Int.cast_neg, interpolated_div]
    simp only [hneg.ne, hneg.not_gt, if_false]
  · simp [rnd_crsValue_zero]
  · have hv : 0 < (a : ℚ) / 65536 := div_pos (by exact_mod_cast hpos) (by norm_num)
    rw [rnd_crsValue_pos hv, interpolated_div]
    simp only [hpos.ne', hpos, if_false, if_true]

theorem crs_zero (c : Calibration) : crs 0 c = c.stop := by
  apply BitVec.eq_of_toNat_eq
  zify
  rw [crs_toNat, clamp_of_mem (by norm_num) (by norm_num), rnd_crsValue_zero]

theorem crs_of_one_le {v : ℚ} (h : 1 ≤ v) (c : Calibration) : crs v c = c.maxf := by
  apply BitVec.eq_of_toNat_eq
  zify
  rw [crs_toNat, clamp_of_ge (by norm_num) h, rnd_crsValue_pos one_pos, interpolated_one]

theorem crs_of_le_neg_one {v : ℚ} (h : v ≤ -1) (c : Calibration) : crs v c = c.maxb := by
  apply BitVec.eq_of_toNat_eq
  zify
  rw [crs_toNat, clamp_of_le (by norm_num) h, rnd_crsValue_neg (by norm_num), neg_neg, interpolated_one]

theorem crs_mem_of_pos {v : ℚ} (h : 0 < v) (c : Calibration) :
    min c.minf.toNat c.maxf.toNat ≤ (crs v c).toNat ∧
      (crs v c).toNat ≤ max c.minf.toNat c.maxf.toNat := by
  have hpos := (clamp_pos_iff v).mpr h
  have hmem := interpolated_mem c.minf c.maxf hpos.le (abs_le.mp (abs_clamp_le_one v)).2
  rwa [← rnd_crsValue_pos hpos, ← crs_toNat, Int.ofNat_le, Int.ofNat_le] at hmem

theorem crs_mem_of_neg {v : ℚ} (h : v < 0) (c : Calibration) :
    min c.minb.toNat c.maxb.toNat ≤ (crs v c).toNat ∧
      (crs v c).toNat ≤ max c.minb.toNat c.maxb.toNat := by
  have hneg := (clamp_neg_iff v).mpr h
  have hlo := (abs_le.mp (abs_clamp_le_one v)).1
  have hmem := interpolated_mem c.minb c.maxb (neg_nonneg.mpr hneg.le) (neg_le.mp hlo)
  rwa [← rnd_crsValue_neg hneg, ← crs_toNat, Int.ofNat_le, Int.ofNat_le] at hmem

/-! ## The commands in integers -/

theorem exec_encang_int (src : Source) (kind : ServoKind) (emit : Bool) (cha : Channel) (s : State) :
    exec (.encang src kind emit cha) s =
      .next { s with
        pulseA := angInt (sourceWord src s) kind
        pulseB := 0
        out := s.out ++ (if emit then [⟨cha, 0, angInt (sourceWord src s) kind⟩] else [])
        status := 0 } := by
  rw [exec_encang, srcval_eq_fx, ang_fx]

/-! ## The statements -/

/-- Settles O45. -/
theorem encdcResult : Obligations.EncdcResult := by
  refine ⟨fun src emit cha chb s => ?_, fun t s h => ?_⟩
  · obtain ⟨ha, hb⟩ := sat12_dc_fx (sourceWord src s)
    rw [exec_encdc, srcval_eq_fx, ha, hb]
  · rw [perform_of_mask (r := .encdc) h, Row.instr, sourceField_eq, emitBit_eq_getLsbD]

/-- Settles O46. -/
theorem encangResult : Obligations.EncangResult := by
  refine ⟨exec_encang_int, fun t s h => ?_⟩
  rw [perform_of_mask (r := .encang) h, Row.instr, sourceField_eq, emitBit_eq_getLsbD,
    servoKind_ofBit_bits]

/-- Settles O47, of the integer count of O46. -/
theorem angularCountIsMonotone : Obligations.AngularCountIsMonotone := by
  intro kind l v w emit cha s s1 s2 h1 h2
  rw [exec_encang_int] at h1 h2
  cases h1
  cases h2
  refine ⟨fun h => angInt_mono h kind, fun h => angInt_eq_zero h kind, ?_, ?_⟩
  · rintro rfl h
    exact angInt_of_limit_le (kind := .deg180) h
  · rintro rfl h
    exact angInt_of_limit_le (kind := .deg270) h

/-- Settles O48. -/
theorem enccrsResult : Obligations.EnccrsResult := by
  refine ⟨fun src emit cha slot s => ?_, fun t s h => ?_⟩
  · rw [exec_enccrs, srcval_eq_fx, crs_fx]
  · rw [perform_of_mask (r := .enccrs) h, Row.instr, sourceField_eq, emitBit_eq_getLsbD, slotField]

/-- Settles O49, over the exact speeds the words stand for. -/
theorem continuousServoEndpoints : Obligations.ContinuousServoEndpoints := by
  intro src emit cha slot s s' h
  rw [exec_enccrs, srcval_eq_fx] at h
  cases h
  generalize sourceWord src s = w
  refine ⟨fun hw => ?_, fun hw => crs_of_one_le ?_ _, fun hw => crs_of_le_neg_one ?_ _,
    fun hw => crs_mem_of_pos ((fx_pos_iff w).mpr hw) _, fun hw => crs_mem_of_neg ((fx_neg_iff w).mpr hw) _⟩
  · rw [fx_eq_zero hw, crs_zero]
  · rw [fx_eq, one_le_div (by norm_num)]
    exact_mod_cast hw
  · rw [fx_eq, div_le_iff₀ (by norm_num)]
    exact_mod_cast hw

/-- Settles O50: a 180 degree servo at -90 degrees has a negative count before saturation. -/
theorem countsBeforeSaturation : Obligations.CountsBeforeSaturation := by
  refine ⟨dc_mem, fun v => rnd_crsValue_mem (abs_clamp_le_one v), rnd_angTicks_le,
    fx 0xFFA60000, .deg180, ?_⟩
  rw [rnd_angTicks_fx]
  decide

end Sys2Proof.Proofs.ActuationFamily

/-! # The configuration family: calibration slots written, read back and kept

The statements about CALWR, CALRD and the life of a slot (spec/43_configuration.md). The statements cut and pack
the points by arithmetic and the model by bits: `bits_eq_ofNat_div` and `packPoints_eq_ofNat` are the two forms'
meeting points. That a slot is kept is read off from `ExecEffect`: the one command that writes a slot is CALWR,
and it writes only its own. -/

namespace Sys2Proof.Proofs.ConfigurationFamily

open Sys2Proof Sys2Proof.Machine Sys2Proof.Proofs.StateFamily
  Sys2Proof.Proofs.MemoryFamily Sys2Proof.Proofs.PowerVectorFamily

/-! ## Packed points as arithmetic (R9, R95) -/

/-- A field is its word divided by the place of its lowest bit, without the bits above. -/
theorem bits_eq_ofNat_div (w : Word) (lo n : Nat) : bits w lo n = BitVec.ofNat n (w.toNat / 2 ^ lo) := by
  rw [bits, BitVec.extractLsb', Nat.shiftRight_eq_div_pow]

/-- The low point leaves the bits of the high one free, so putting them together is adding. -/
theorem packPoints_eq_ofNat (low high : PulseCount) :
    packPoints low high = BitVec.ofNat 32 (high.toNat * 65536 + low.toNat) := by
  have hlow : low.toNat < 2 ^ 16 := by omega
  have hor : high.toNat * 65536 + low.toNat = low.toNat ||| high.toNat <<< 16 := by
    rw [Nat.or_comm, ← Nat.shiftLeft_add_eq_or_of_lt hlow, Nat.shiftLeft_eq]
  have hhigh : (high.setWidth 32).toNat = high.toNat := (toNat_setWidth_pulseCount high).1
  rw [hor, BitVec.ofNat_or, packPoints, BitVec.ofNat_toNat, ← hhigh]
  rfl

/-- R181: the third result word is the packing of `MAXF` alone. -/
theorem calRes2_eq_packPoints (c : Calibration) : calRes2 c = packPoints c.maxf 0 := by
  simp [calRes2, packPoints]

/-- R95, R181: CALWR's unpacking undoes CALRD's packing. -/
theorem unpack_calRes (c : Calibration) : Calibration.unpack (calRes0 c) (calRes1 c) (calRes2 c) = c := by
  rw [calRes0, calRes1, calRes2_eq_packPoints, unpack_packPoints]

/-! ## The command words of a slot (R90, R99) -/

theorem calwrWord_and_mask (slot : Slot) :
    BitVec.ofNat 32 (0x30000000 + slot.val * 65536) &&& Row.calwr.mask = Row.calwr.value := by
  revert slot; decide

theorem slotField_calwrWord (slot : Slot) :
    slotField (BitVec.ofNat 32 (0x30000000 + slot.val * 65536)) = slot := by
  revert slot; decide

theorem encodeCmd_calrd (slot : Slot) :
    encodeCmd (.calrd slot) = BitVec.ofNat 32 (0x31000000 + slot.val * 65536) := by
  revert slot; decide

theorem perform_calwrWord (slot : Slot) (opa opb opc opd : Word) (s : State) :
    perform ⟨BitVec.ofNat 32 (0x30000000 + slot.val * 65536), opa, opb, opc, opd⟩ s =
      .next { s with cal := s.cal.set slot (.unpack opa opb opc), status := 0 } := by
  rw [perform_of_mask (r := .calwr) (calwrWord_and_mask slot), Row.instr, slotField_calwrWord, exec_calwr]

/-- The word of a CALRD with no operands is the encoder's. -/
theorem perform_calrdWord (slot : Slot) (s : State) :
    perform ⟨BitVec.ofNat 32 (0x31000000 + slot.val * 65536), 0, 0, 0, 0⟩ s = exec (.calrd slot) s := by
  have hencode : encode (.calrd slot) = ⟨encodeCmd (.calrd slot), 0, 0, 0, 0⟩ := rfl
  rw [← encodeCmd_calrd, ← hencode, perform, decode_encode rfl]

/-! ## What changes a slot (R182) -/

/-- A command that is no CALWR to a slot leaves the slot as it was. -/
theorem calSlot_eq_of_exec {i : Instr} {s s' : State} {k : Slot} (h : exec i s = .next s')
    (hk : ∀ c, i ≠ .calwr k c) : s'.calSlot k = s.calSlot k := by
  cases exec_effect h with
  | writeCal slot points calwr =>
    have hne : slot ≠ k := fun hslot => hk points (hslot ▸ calwr)
    exact calSlot_setCalSlot_other s points hne
  | _ => rfl

/-- Nor does a transaction that does not decode to one, legal or not. -/
theorem calSlot_eq_of_perform {t : Transaction} {s s' : State} {k : Slot} (h : perform t s = .next s')
    (hk : ∀ c, decode t ≠ .ok (.calwr k c)) : s'.calSlot k = s.calSlot k := by
  obtain ⟨i, hi, hp⟩ | ⟨e, -, hp⟩ := perform_cases t s
  · exact calSlot_eq_of_exec (hp.symm.trans h) fun c hc => hk c (hc ▸ hi)
  · cases hp.symm.trans h
    rfl

/-- Writing a slot's own value changes no slot. -/
theorem cal_set_calSlot (s : State) (slot : Slot) : s.cal.set slot (s.calSlot slot) = s.cal :=
  Vector.set_getElem_self _

/-! ## The statements -/

/-- Settles O26: of the three things a step does, only performing a command can change a slot here. -/
theorem calibrationSlotLifetime : Obligations.CalibrationSlotLifetime := by
  intro s s' k h hreset hcalwr
  obtain ⟨-, rfl⟩ | ⟨t, rest, hport, hp⟩ | ⟨rest, hport, -⟩ := step_cases h
  · rfl
  · exact calSlot_eq_of_perform (s := { s with port := rest }) hp fun c => hcalwr t rest c hport
  · exact absurd hport (hreset rest)

/-- Settles O54. -/
theorem calrdResult : Obligations.CalrdResult := by
  refine ⟨fun slot s => ?_, fun t s h => perform_of_mask (r := .calrd) h s⟩
  rw [exec_calrd, calRes0, calRes1, packPoints_eq_ofNat, packPoints_eq_ofNat, calRes2, BitVec.ofNat_toNat]

/-- Settles O55: the CALWR writes the slot's own value back. -/
theorem calrdResultRewritesTheSlot : Obligations.CalrdResultRewritesTheSlot := by
  intro slot s
  refine ⟨_, _, (perform_calrdWord slot s).trans (exec_calrd slot s), perform_calwrWord slot _ _ _ _ _, ?_⟩
  simp only [unpack_calRes, cal_set_calSlot]

/-- Settles O53. -/
theorem calwrResult : Obligations.CalwrResult := by
  refine ⟨fun slot opa opb opc opd s => ?_, exec_calwr⟩
  rw [perform_calwrWord, Calibration.unpack]
  simp only [bits_eq_ofNat_div, Nat.reducePow, Nat.div_one]

end Sys2Proof.Proofs.ConfigurationFamily

/-! # The exceptions family: no step stops

The block raises no exception (spec/60_exceptions.md R201). A step has three inputs to answer: none, when it
waits; a command transaction, which `perform_total` answers whatever its words; and reset. `step_of_port_nil`
and `step_reset` say the first and the last, next to `step_command` of the memory family. -/

namespace Sys2Proof.Proofs.ExceptionsFamily

open Sys2Proof Sys2Proof.Machine Sys2Proof.Proofs.MemoryFamily

/-! ## The steps that perform no command (R215, R230, R231) -/

theorem step_of_port_nil {s : State} (h : s.port = []) : step s = .next s := by
  rw [step, h]

theorem step_reset {s : State} {rest : List HostInput} (h : s.port = .reset :: rest) :
    step s = .next (State.resetWith s.southHist rest) := by
  rw [step, h]
  simp only [State.applyReset, State.takeInput_southHist, State.takeInput_port, h, List.tail_cons]

/-! ## The statements -/

/-- Settles O16, by the next input: waiting and reset answer a state of their own, and no transaction
stops. -/
theorem stepNeverStops : Obligations.StepNeverStops := by
  intro s
  match hport : s.port with
  | [] => exact ⟨s, step_of_port_nil hport⟩
  | .command t :: rest =>
    rw [step_command hport]
    exact perform_total t { s with port := rest }
  | .reset :: rest => exact ⟨State.resetWith s.southHist rest, step_reset hport⟩

/-- Settles O19. -/
theorem waitingHoldsTheState : Obligations.WaitingHoldsTheState :=
  fun _ hport => step_of_port_nil hport

end Sys2Proof.Proofs.ExceptionsFamily

/-! # The reset family: reset between two commands

Reset is an input of the host's port (spec/70_reset_and_hazards.md R230, R231; log 3). `step_reset` of the
exceptions family says that the step answers `State.resetWith`; what remains is that this state holds R49's
values. -/

namespace Sys2Proof.Proofs.ResetFamily

open Sys2Proof Sys2Proof.Machine Sys2Proof.Proofs.ExceptionsFamily

/-- Settles O12: `step_reset` gives the next state, and `State.resetWith` is written with R49's values. -/
theorem resetBetweenCommands : Obligations.ResetBetweenCommands := by
  intro s rest hport
  rw [step_reset hport, State.resetWith, PowerVector.zero, Config.CRS_DEFAULT]

end Sys2Proof.Proofs.ResetFamily
